-- ==== Sys2Proof/Word.lean ====
section
/-! DEFINITION. The words of the block: bytes, 16-bit and 32-bit values, and the 6-byte hardware address (spec 00 R10, R12; 10 R24). -/

namespace Sys2Proof

/-- A byte: 8 bits, unsigned (00 R10). -/
abbrev Byte := BitVec 8

/-- A 16-bit unsigned value (00 R12). -/
abbrev Half := BitVec 16

/-- A 32-bit unsigned value (00 R12). -/
abbrev Word := BitVec 32

/-- A hardware address of a frame: six bytes in wire order, `b0` the byte at the lowest offset (10 R24, R25; 20 R54). -/
structure Mac where
  b0 : Byte
  b1 : Byte
  b2 : Byte
  b3 : Byte
  b4 : Byte
  b5 : Byte
  deriving DecidableEq, Repr

/-- The address as a byte sequence of length 6, wire order. -/
def Mac.toList (m : Mac) : List Byte := [m.b0, m.b1, m.b2, m.b3, m.b4, m.b5]

end Sys2Proof
end

