-- ==== Sys2Proof/Config.lean ====
section
/-! DEFINITION. The constants of 00 R8 and the two parameters of 00 R9. -/

namespace Sys2Proof

/-- Symbols of `ETYPE_NAMES` and of the hardware type names (10 R39, R47). `other` stands for the symbols of further
entries an implementer may add to the table (codes 4 and up). -/
inductive Symbol where
  | ethernet
  | ipv4
  | arp
  | other (n : Nat)
  deriving DecidableEq, Repr

/-- The parameters the spec leaves open (00 R9): the largest frame (`none`: unbounded) and the EtherType-name table. -/
structure Config where
  maxFrameBytes : Option Nat
  etypeNames    : List (Half × Symbol)
  deriving DecidableEq, Repr

namespace Const

/-- 00 R8 `MIN_FRAME_BYTES`. -/
abbrev minFrameBytes : Nat := 15
/-- 00 R8 `HDR_LEN_UNTAGGED`. -/
abbrev hdrLenUntagged : Nat := 14
/-- 00 R8 `HDR_LEN_TAGGED`. -/
abbrev hdrLenTagged : Nat := 18
/-- 00 R8 `MAC_LEN`. -/
abbrev macLen : Nat := 6
/-- 00 R8 `VLAN_MARKER`. -/
def vlanMarker : Half := 0x8100
/-- 00 R8 `ETYPE_ARP`. -/
def etypeArp : Half := 0x0806
/-- 00 R8 `ETYPE_IPV4`. -/
def etypeIpv4 : Half := 0x0800
/-- 00 R8 `LEN_THRESHOLD`. -/
abbrev lenThreshold : Nat := 1500
/-- 00 R8 `ARP_FIXED_LEN`. -/
abbrev arpFixedLen : Nat := 8
/-- 00 R8 `ARP_RECOMMENDED_MIN`. -/
abbrev arpRecommendedMin : Nat := 28
/-- 00 R8 `HTYPE_ETHERNET`. -/
def htypeEthernet : Half := 1
/-- 00 R8 `OP_REQUEST`. -/
def opRequest : Half := 1
/-- 00 R8 `OP_REPLY`. -/
def opReply : Half := 2
/-- 00 R8 `ZERO_MAC`. -/
def zeroMac : List Byte := [0, 0, 0, 0, 0, 0]
/-- 00 R8 `ZERO_IPV4`. -/
def zeroIpv4 : List Byte := [0, 0, 0, 0]

end Const

/-- The default table of 10 R47, exactly two entries. -/
def Config.defaultNames : List (Half × Symbol) :=
  [(Const.etypeIpv4, .ipv4), (Const.etypeArp, .arp)]

/-- The parameters at reset: no bound on a frame (00 R9 allows it, log 4) and the table of 10 R47. -/
def Config.default : Config := { maxFrameBytes := none, etypeNames := Config.defaultNames }

/-- What 00 R9 and 10 R47 ask of `ETYPE_NAMES`: a finite map (one entry a key), 0x0800 named `IPv4`, 0x0806 named `ARP`, no
other key named `IPv4`, and (10 R39) `Ethernet` no symbol of this table. -/
def Config.namesOk (names : List (Half × Symbol)) : Bool :=
  (names.map Prod.fst).Nodup
    && names.contains (Const.etypeIpv4, .ipv4)
    && names.contains (Const.etypeArp, .arp)
    && names.all (fun e => e.2 != .ipv4 || e.1 == Const.etypeIpv4)
    && names.all (fun e => e.2 != .ethernet)

/-- The constraint of 00 R9 on both parameters. -/
def Config.ok (c : Config) : Bool :=
  (match c.maxFrameBytes with
    | none => true
    | some n => Const.minFrameBytes ≤ n) && Config.namesOk c.etypeNames

end Sys2Proof
end

