-- ==== Sys2Proof/Syntax.lean ====
section
/-! DEFINITION. The instructions: one constructor for each row of spec/opcode_table.json, and their operand forms. -/

namespace Sys2Proof

/-- The five windows of the code-point rows (30 R88): the bits that `match` and `mask` apply to. -/
inductive Window where
  | eth12
  | etype
  | arpHtype
  | arpPtype
  | arpOper
  deriving DecidableEq, Repr

/-- The two decoders of the pipeline (00 R1). -/
inductive Decoder where
  | frame
  | arp
  deriving DecidableEq, Repr

/-- The registers that hold a byte sequence, and can so be an operand of `MAC_FMT`, `HEXJOIN` and `DOTTED`. -/
inductive SeqReg where
  | macDest
  | macSrc
  | senderHwAddr
  | senderProtoAddr
  | targetHwAddr
  | targetProtoAddr
  deriving DecidableEq, Repr

/-- Operand of a formatting function: a register, or bytes the caller gives (41 R120 "callable independently of decode"). -/
inductive SeqOperand where
  | reg (r : SeqReg)
  | lit (bytes : List Byte)
  deriving DecidableEq, Repr

/-- Input of `ARP_DECODE` (42 R130): the payload of the frame just decoded, or the whole buffer as a stand-alone payload (40 R107). -/
inductive ArpInput where
  | payload
  | whole
  deriving DecidableEq, Repr

/-- The instructions, in the order of spec/opcode_table.json. The operand of a code point is the 16 bits of its window where
the row does not fix them (the row's `source_fields`). -/
inductive Instr where
  | cpEth12Vlan
  | cpEth12Plain (etherType : Half)
  | cpEtypeArp
  | cpEtypeLength (length : Half)
  | cpEtypeOther (etherType : Half)
  | cpHtypeEthernet
  | cpHtypeOther (hardwareType : Half)
  | cpPtypeIpv4
  | cpPtypeArp
  | cpPtypeOther (protocolType : Half)
  | cpOperRequest
  | cpOperReply
  | cpOperOther (operation : Half)
  | demux
  | demuxSel
  | frameDecode
  | fdLenchk
  | fdMacdst
  | fdMacsrc
  | fdVlanpeek
  | fdVlanchk
  | fdVlantag
  | fdEtype
  | fdPayload
  | fdLenwarn
  | macFmt (src : SeqOperand)
  | arpDecode (src : ArpInput)
  | adLenchk
  | adHdrchk
  | adHtype
  | adPtype
  | adHlen
  | adPlen
  | adOper
  | adSha
  | adSpa
  | adTha
  | adTpa
  | adTrunc
  | adTrail
  | avHwname
  | avPtname
  | hexjoin (src : SeqOperand)
  | dotted (src : SeqOperand)
  | avSpaStr
  | avTpaStr
  | avShaStr
  | avThaStr
  | avOpclass
  deriving DecidableEq, Repr

/-- The rows of `kind` code point (30 R88): the instructions that a window's bits select. -/
def Instr.isCodePoint : Instr → Bool
  | .cpEth12Vlan | .cpEth12Plain _ | .cpEtypeArp | .cpEtypeLength _ | .cpEtypeOther _ | .cpHtypeEthernet
  | .cpHtypeOther _ | .cpPtypeIpv4 | .cpPtypeArp | .cpPtypeOther _ | .cpOperRequest | .cpOperReply | .cpOperOther _ => true
  | .demux | .demuxSel | .frameDecode | .fdLenchk | .fdMacdst | .fdMacsrc | .fdVlanpeek | .fdVlanchk | .fdVlantag
  | .fdEtype | .fdPayload | .fdLenwarn | .macFmt _ | .arpDecode _ | .adLenchk | .adHdrchk | .adHtype | .adPtype
  | .adHlen | .adPlen | .adOper | .adSha | .adSpa | .adTha | .adTpa | .adTrunc | .adTrail | .avHwname | .avPtname
  | .hexjoin _ | .dotted _ | .avSpaStr | .avTpaStr | .avShaStr | .avThaStr | .avOpclass => false

/-- The place of a step: its decoder, and how many of that decoder's steps run before it (41 R110 "the steps run in
exactly this order", 42 R130); `none` for every other row. -/
def Instr.place : Instr → Option (Decoder × Nat)
  | .fdLenchk => some (.frame, 0)
  | .fdMacdst => some (.frame, 1)
  | .fdMacsrc => some (.frame, 2)
  | .fdVlanpeek => some (.frame, 3)
  | .fdVlanchk => some (.frame, 4)
  | .fdVlantag => some (.frame, 5)
  | .fdEtype => some (.frame, 6)
  | .fdPayload => some (.frame, 7)
  | .fdLenwarn => some (.frame, 8)
  | .adLenchk => some (.arp, 0)
  | .adHdrchk => some (.arp, 1)
  | .adHtype => some (.arp, 2)
  | .adPtype => some (.arp, 3)
  | .adHlen => some (.arp, 4)
  | .adPlen => some (.arp, 5)
  | .adOper => some (.arp, 6)
  | .adSha => some (.arp, 7)
  | .adSpa => some (.arp, 8)
  | .adTha => some (.arp, 9)
  | .adTpa => some (.arp, 10)
  | .adTrunc => some (.arp, 11)
  | .adTrail => some (.arp, 12)
  | .cpEth12Vlan | .cpEth12Plain _ | .cpEtypeArp | .cpEtypeLength _ | .cpEtypeOther _ | .cpHtypeEthernet
  | .cpHtypeOther _ | .cpPtypeIpv4 | .cpPtypeArp | .cpPtypeOther _ | .cpOperRequest | .cpOperReply | .cpOperOther _
  | .demux | .demuxSel | .frameDecode | .macFmt _ | .arpDecode _ | .avHwname | .avPtname | .hexjoin _ | .dotted _
  | .avSpaStr | .avTpaStr | .avShaStr | .avThaStr | .avOpclass => none

/-- How many steps a decoder has (41 R110, 42 R130). -/
def Decoder.stepCount : Decoder → Nat
  | .frame => 9
  | .arp => 13

/-- The decoder whose step a row is. -/
def Instr.stepOf (i : Instr) : Option Decoder := i.place.map Prod.fst

end Sys2Proof
end

