-- ==== Sys2Proof/WellFormed.lean ====
section
/-! DEFINITION. Which instruction terms stand for a row of the table: the `predicate` column of its code-point rows and the
lengths that 41 R120 and 43 R159 ask of an operand the caller gives. -/

namespace Sys2Proof

/-- Whether a caller's bytes have the length `n`; a register's length is known only when the instruction runs. -/
def SeqOperand.hasLength (n : Nat) : SeqOperand → Bool
  | .reg _ => true
  | .lit bytes => bytes.length == n

/-- The predicates of the mask-0 code points (30 R83 to R87, R88), read with the table `names`, and the operand lengths. -/
def Instr.wf (names : List (Half × Symbol)) : Instr → Bool
  | .cpEth12Plain v => v != Const.vlanMarker
  | .cpEtypeLength v => v.toNat ≤ Const.lenThreshold
  | .cpEtypeOther v => Const.lenThreshold < v.toNat && v != Const.etypeArp
  | .cpHtypeOther v => v != Const.htypeEthernet
  | .cpPtypeOther v => !(names.map Prod.fst).contains v
  | .cpOperOther v => v != Const.opRequest && v != Const.opReply
  | .macFmt src => src.hasLength Const.macLen
  | .dotted src => src.hasLength 4
  | .cpEth12Vlan | .cpEtypeArp | .cpHtypeEthernet | .cpPtypeIpv4 | .cpPtypeArp | .cpOperRequest | .cpOperReply
  | .demux | .demuxSel | .frameDecode | .fdLenchk | .fdMacdst | .fdMacsrc | .fdVlanpeek | .fdVlanchk | .fdVlantag
  | .fdEtype | .fdPayload | .fdLenwarn | .arpDecode _ | .adLenchk | .adHdrchk | .adHtype | .adPtype | .adHlen | .adPlen
  | .adOper | .adSha | .adSpa | .adTha | .adTpa | .adTrunc | .adTrail | .avHwname | .avPtname | .hexjoin _ | .avSpaStr
  | .avTpaStr | .avShaStr | .avThaStr | .avOpclass => true

/-- What a caller may ask for by name: a well-formed row of `kind` step. A code point is selected by its window's bits and by
nothing else (30 R88). -/
def Instr.requestable (names : List (Half × Symbol)) (i : Instr) : Bool :=
  !i.isCodePoint && i.wf names

end Sys2Proof
end

