-- ==== Sys2Proof/Decode.lean ====
section
/-! DEFINITION. Reading the wire: field assembly (30 R80, R82), the code points of each window (30 R83 to R88), and after them
the encoders, of a code point's bits and of the three wire formats (30 R75 to R79). -/

namespace Sys2Proof

/-- `be16` of two adjacent bytes (00 R12, 30 R80): the first byte holds the more significant bits. -/
def be16 (first second : Byte) : Half := first ++ second

/-- `be32` of four adjacent bytes (00 R12, 30 R82). -/
def be32 (b0 b1 b2 b3 : Byte) : Word := be16 b0 b1 ++ be16 b2 b3

/-- The more significant byte of a 16-bit value, which stands first on the wire. -/
def hiByte (v : Half) : Byte := v.extractLsb' 8 8

/-- The less significant byte of a 16-bit value. -/
def loByte (v : Half) : Byte := v.extractLsb' 0 8

/-- The two bytes of a 16-bit value in wire order. -/
def halfBytes (v : Half) : List Byte := [hiByte v, loByte v]

/-- `ETYPE_NAMES[key]` (10 R47), `none` when `key` is no key of the table. -/
def symbolOf : List (Half × Symbol) → Half → Option Symbol
  | [], _ => none
  | (k, sym) :: rest, key => if k = key then some sym else symbolOf rest key

/-- Why the decoder answers no instruction, by name. -/
inductive Reject where
  /-- Fewer than the two bytes of a window. -/
  | truncated (w : Window)
  /-- A 16-bit value of the window that no row of the table covers: a key that an implementer added to `ETYPE_NAMES`
  (30 R86, log 15). No other window and no value under the default table gives this. -/
  | noRow (w : Window) (bits : Half)
  deriving DecidableEq, Repr

/-- The code point that 16 bits select in a window: 30 R83 (ETH12), R84 (ETYPE), R85 (ARP.HTYPE), R86 (ARP.PTYPE), R87 (ARP.OPER),
tried in file order (30 R88). -/
def decodeHalf (names : List (Half × Symbol)) (w : Window) (v : Half) : Except Reject Instr :=
  match w with
  | .eth12 => if v = Const.vlanMarker then .ok .cpEth12Vlan else .ok (.cpEth12Plain v)
  | .etype =>
    if v = Const.etypeArp then .ok .cpEtypeArp
    else if v.toNat ≤ Const.lenThreshold then .ok (.cpEtypeLength v)
    else .ok (.cpEtypeOther v)
  | .arpHtype => if v = Const.htypeEthernet then .ok .cpHtypeEthernet else .ok (.cpHtypeOther v)
  | .arpPtype =>
    if v = Const.etypeIpv4 then .ok .cpPtypeIpv4
    else if v = Const.etypeArp then .ok .cpPtypeArp
    else match symbolOf names v with
      | none => .ok (.cpPtypeOther v)
      | some _ => .error (.noRow .arpPtype v)
  | .arpOper =>
    if v = Const.opRequest then .ok .cpOperRequest
    else if v = Const.opReply then .ok .cpOperReply
    else .ok (.cpOperOther v)

/-- The decoder, total on any bytes: the first two bytes are the window's bits, big-endian. -/
def decode (names : List (Half × Symbol)) (w : Window) : List Byte → Except Reject Instr
  | hi :: lo :: _ => decodeHalf names w (be16 hi lo)
  | [_] => .error (.truncated w)
  | [] => .error (.truncated w)

/-- The window and the bits of a code point; `none` for a row of `kind` step, which no bits select (30 R88 "`NONE` means the row
is not selected by bits"). -/
def encodeHalf : Instr → Option (Window × Half)
  | .cpEth12Vlan => some (.eth12, Const.vlanMarker)
  | .cpEth12Plain v => some (.eth12, v)
  | .cpEtypeArp => some (.etype, Const.etypeArp)
  | .cpEtypeLength v => some (.etype, v)
  | .cpEtypeOther v => some (.etype, v)
  | .cpHtypeEthernet => some (.arpHtype, Const.htypeEthernet)
  | .cpHtypeOther v => some (.arpHtype, v)
  | .cpPtypeIpv4 => some (.arpPtype, Const.etypeIpv4)
  | .cpPtypeArp => some (.arpPtype, Const.etypeArp)
  | .cpPtypeOther v => some (.arpPtype, v)
  | .cpOperRequest => some (.arpOper, Const.opRequest)
  | .cpOperReply => some (.arpOper, Const.opReply)
  | .cpOperOther v => some (.arpOper, v)
  | .demux | .demuxSel | .frameDecode | .fdLenchk | .fdMacdst | .fdMacsrc | .fdVlanpeek | .fdVlanchk | .fdVlantag
  | .fdEtype | .fdPayload | .fdLenwarn | .macFmt _ | .arpDecode _ | .adLenchk | .adHdrchk | .adHtype | .adPtype
  | .adHlen | .adPlen | .adOper | .adSha | .adSpa | .adTha | .adTpa | .adTrunc | .adTrail | .avHwname | .avPtname
  | .hexjoin _ | .dotted _ | .avSpaStr | .avTpaStr | .avShaStr | .avThaStr | .avOpclass => none

/-- The encoder: a code point's window and its bytes in wire order. -/
def encode (i : Instr) : Option (Window × List Byte) :=
  (encodeHalf i).map fun p => (p.1, halfBytes p.2)

/-! ## The opcode table's numbering -/

/-- Two bytes of an instruction given as a number whose bit 0 is the least significant bit of its one 16-bit word, as the
hardware stores them: big-endian (20 R53). -/
def tableBytes (w : Nat) : List Byte := halfBytes (BitVec.ofNat 16 w)

/-- The window a table word is read in. A word of the table does not name its window, and two words stand in two windows
(0x0806 in ETYPE and ARP.PTYPE, 0x0001 in ARP.HTYPE and ARP.OPER): the first row of the table that fixes the word decides, and a word
no row fixes is read where a frame's first decision stands, ETH12 (log 13). -/
def tableWindow (w : Nat) : Window :=
  if w = 0x8100 then .eth12
  else if w = 0x0806 then .etype
  else if w = 0x0001 then .arpHtype
  else if w = 0x0800 then .arpPtype
  else if w = 0x0002 then .arpOper
  else .eth12

/-- The instruction the decoder reads from an instruction of the opcode table: every row with bits has 16 of them. -/
def decodeTableWord (nbits w : Nat) : Option Instr :=
  if nbits = 16 ∧ w < 65536 then
    match decode Config.defaultNames (tableWindow w) (tableBytes w) with
    | .ok i => some i
    | .error _ => none
  else none

/-! ## The wire formats, as bytes (for round trips; the block builds no frame, 30 R95) -/

/-- The fields of a frame in format `F-ETH` (`tag = none`, 30 R76) or `F-ETHQ` (`tag` the tag control information, 30 R77). -/
structure FrameFields where
  macDest   : Mac
  macSrc    : Mac
  tag       : Option Half
  etherType : Half
  payload   : List Byte
  deriving DecidableEq, Repr

/-- An untagged frame's EtherType is not the marker (30 R76), and the block accepts at least one payload byte then (41 R111). -/
def FrameFields.wf (f : FrameFields) : Bool :=
  match f.tag with
  | some _ => true
  | none => f.etherType != Const.vlanMarker && 0 < f.payload.length

/-- The bytes between the source address and the EtherType: none, or the marker and the tag control information. -/
def tagBytes : Option Half → List Byte
  | none => []
  | some tci => halfBytes Const.vlanMarker ++ halfBytes tci

/-- The bytes of a frame (30 R76, R77). -/
def encodeFrame (f : FrameFields) : List Byte :=
  f.macDest.toList ++ f.macSrc.toList ++ tagBytes f.tag ++ halfBytes f.etherType ++ f.payload

/-- The fields of a packet in format `F-ARP` (30 R78, R79) with what trails it. -/
structure ArpFields where
  hardwareType    : Half
  protocolType    : Half
  operation       : Half
  senderHwAddr    : List Byte
  senderProtoAddr : List Byte
  targetHwAddr    : List Byte
  targetProtoAddr : List Byte
  trailing        : List Byte
  deriving DecidableEq, Repr

/-- One length byte for both hardware addresses and one for both protocol addresses (42 R140), each at most 255 (10 R30). -/
def ArpFields.wf (a : ArpFields) : Bool :=
  a.targetHwAddr.length == a.senderHwAddr.length && a.targetProtoAddr.length == a.senderProtoAddr.length
    && a.senderHwAddr.length < 256 && a.senderProtoAddr.length < 256

/-- The bytes of an ARP packet (30 R78, R79). -/
def encodeArp (a : ArpFields) : List Byte :=
  halfBytes a.hardwareType ++ halfBytes a.protocolType
    ++ [BitVec.ofNat 8 a.senderHwAddr.length, BitVec.ofNat 8 a.senderProtoAddr.length] ++ halfBytes a.operation
    ++ a.senderHwAddr ++ a.senderProtoAddr ++ a.targetHwAddr ++ a.targetProtoAddr ++ a.trailing

end Sys2Proof
end

