-- ==== Sys2Proof/Machine/State.lean ====
section
/-! DEFINITION. The state of the block, the values it answers, the reasons it stops, and the state after reset (spec 10, 70 R210). -/

namespace Sys2Proof.Machine

/-- The frame buffer (10 R20, 20 R50): `len` bytes at the offsets `0` to `len - 1`. `cells` lists, offsets strictly rising, the
bytes that are not zero; an offset below `len` that is not listed holds zero. So every byte sequence is exactly one
well-formed `Frame` (log 1). -/
structure Frame where
  cells : List Host.Cell
  len   : Nat
  deriving DecidableEq, Repr

/-- `frame_status` (10 R36). -/
inductive FrameStatus where
  | none
  | ok
  | tooShort
  deriving DecidableEq, Repr

/-- `arp_status` (10 R36). -/
inductive ArpStatus where
  | notRun
  | ok
  | tooShort
  deriving DecidableEq, Repr

/-- FrameDecoder's result registers (10 R24 to R28, R34, R35). `none` is the spec's `invalid` (10 R41). -/
structure Header where
  macDest      : Option Mac
  macSrc       : Option Mac
  vlanPresent  : Option Bool
  vlanTag      : Option Word
  etherType    : Option Half
  hdrLen       : Option Nat
  payloadOff   : Option Nat
  payloadLen   : Option Nat
  wLenMismatch : Option Bool
  deriving DecidableEq, Repr

/-- Every register of FrameDecoder invalid (10 R41, R49). -/
def Header.invalid : Header :=
  { macDest := none, macSrc := none, vlanPresent := none, vlanTag := none, etherType := none, hdrLen := none,
    payloadOff := none, payloadLen := none, wLenMismatch := none }

/-- ArpDecoder's result registers (10 R29 to R33, R35). `none` is the spec's `invalid` (10 R41). -/
structure ArpRecord where
  hardwareType    : Option Half
  protocolType    : Option Half
  hardwareLen     : Option Byte
  protocolLen     : Option Byte
  operation       : Option Half
  senderHwAddr    : Option (List Byte)
  senderProtoAddr : Option (List Byte)
  targetHwAddr    : Option (List Byte)
  targetProtoAddr : Option (List Byte)
  arpConsumed     : Option Nat
  trailOff        : Option Nat
  trailLen        : Option Nat
  wArpUnderlen    : Option Bool
  wArpTrailing    : Option Bool
  wArpTrunc       : Option Bool
  deriving DecidableEq, Repr

/-- Every register of ArpDecoder invalid (10 R41, R49). -/
def ArpRecord.invalid : ArpRecord :=
  { hardwareType := none, protocolType := none, hardwareLen := none, protocolLen := none, operation := none,
    senderHwAddr := none, senderProtoAddr := none, targetHwAddr := none, targetProtoAddr := none, arpConsumed := none,
    trailOff := none, trailLen := none, wArpUnderlen := none, wArpTrailing := none, wArpTrunc := none }

/-- The cursor (10 R44): the decoder that runs and its offset, an absolute frame offset in FrameDecoder and a payload
offset in ArpDecoder. `done` is the model's: how many of the decoder's steps have run, which says which step it reaches
next (10 R42, 41 R110, 42 R130; log 7). -/
structure Cursor where
  owner : Decoder
  off   : Nat
  done  : Nat
  deriving DecidableEq, Repr

/-- What a caller may read (10 R21, R37): the registers, the payload view, the trailing view and `diag`. -/
inductive Reg where
  | frameStatus
  | arpStatus
  | macDest
  | macSrc
  | vlanPresent
  | vlanTag
  | etherType
  | hdrLen
  | payloadOff
  | payloadLen
  | payload
  | wLenMismatch
  | hardwareType
  | protocolType
  | hardwareLen
  | protocolLen
  | operation
  | senderHwAddr
  | senderProtoAddr
  | targetHwAddr
  | targetProtoAddr
  | arpConsumed
  | trailOff
  | trailLen
  | trailing
  | wArpUnderlen
  | wArpTrailing
  | wArpTrunc
  | diag
  deriving DecidableEq, Repr

/-- `TypeName` (10 R39): a symbol, or the raw number. -/
inductive TypeName where
  | named (sym : Symbol)
  | raw (value : Half)
  deriving DecidableEq, Repr

/-- `Rendered` (10 R40): a string, or the raw bytes. -/
inductive Rendered where
  | text (chars : List Char)
  | bytes (bytes : List Byte)
  deriving DecidableEq, Repr

/-- `OpClass` (10 R38), in D00's order of precedence. -/
inductive OpClass where
  | announcement
  | gratuitous
  | probe
  | request
  | reply
  | invalid
  deriving DecidableEq, Repr

/-- How the addresses of a type are rendered (43 R160 to R163): joined hexadecimal, dotted decimal when four bytes long, or
the bytes as they are. -/
inductive RenderRule where
  | hexJoined
  | dottedIfFour
  | rawBytes
  deriving DecidableEq, Repr

/-- What an `operation` value is (30 R87): a request, a reply, or neither. -/
inductive OperKind where
  | request
  | reply
  | neither
  deriving DecidableEq, Repr

/-- `diag` as a caller reads it (10 R37): each bit is one flag and is valid exactly when that flag is (10 R41); `none` is invalid. -/
structure Diag where
  /-- `diag[0] = W_LEN_MISMATCH`. -/
  bit0 : Option Bool
  /-- `diag[1] = W_ARP_UNDERLEN`. -/
  bit1 : Option Bool
  /-- `diag[2] = W_ARP_TRAILING`. -/
  bit2 : Option Bool
  /-- `diag[3] = W_ARP_TRUNC`. -/
  bit3 : Option Bool
  deriving DecidableEq, Repr

/-- What an operation hands to the caller. -/
inductive Value where
  | frameStatus (v : FrameStatus)
  | arpStatus (v : ArpStatus)
  | bit (v : Bool)
  | byte (v : Byte)
  | half (v : Half)
  | word (v : Word)
  | nat (v : Nat)
  | bytes (v : List Byte)
  | diag (v : Diag)
  | text (chars : List Char)
  /-- A type's name with the field it was derived from (10 R39: `raw` is "always the raw field value"). -/
  | typeName (v : TypeName) (field : Half)
  | rendered (v : Rendered)
  | opClass (v : OpClass)
  /-- What a `hardware_type` or `protocol_type` code point decides (30 R85, R86). -/
  | naming (name : TypeName) (rule : RenderRule)
  /-- What an `operation` code point decides (30 R87): the kind, and the classes that packet can still have. -/
  | opcode (kind : OperKind) (reachable : List OpClass)
  deriving DecidableEq, Repr

/-- The three ways a run of a decoder begins (40 R100, R107; 42 R130): on a frame; ArpDecoder on the payload of the frame just
decoded; ArpDecoder alone on the whole buffer. -/
inductive Entry where
  | frame
  | arpPayload
  | arpWhole
  deriving DecidableEq, Repr

/-- What the caller asks of the block, and the points of a run carried out step by step (log 5, log 7). -/
inductive Op where
  /-- The caller fills the buffer with a frame (10 R20). -/
  | present (bytes : List Byte)
  /-- Run a row of `kind` step: an operation, a decoder's step, a view or a helper. -/
  | run (i : Instr)
  /-- Run the code point that the window's bits select (30 R88). -/
  | select (w : Window)
  /-- Begin a run of a decoder, to be carried out step by step. -/
  | start (e : Entry)
  /-- `return` of a decoder (00 R15). -/
  | ret (d : Decoder)
  /-- The caller reads a register (10 R41, 70 R216). -/
  | read (r : Reg)
  /-- Reset of the block (70 R210). -/
  | reset
  deriving DecidableEq, Repr

/-- The state: the parameters (constant), the frame buffer, the two status registers, the result registers, the cursor, and
the model's own three fields (`bufferHeld`, log 18; `pending`, log 5; `answer`, log 6). -/
structure State where
  cfg         : Config
  raw         : Frame
  frameStatus : FrameStatus
  arpStatus   : ArpStatus
  hdr         : Header
  arp         : ArpRecord
  cursor      : Option Cursor
  bufferHeld  : Bool
  pending     : List Op
  answer      : Option Value
  deriving DecidableEq, Repr

/-- Why the machine stops with a fault. Every one is safe: the model stops and says nothing about what follows. -/
inductive Fault where
  /-- A read of an invalid register (10 R41 "a model faults or refuses a read of it"): raised by reads, views, helpers and
  steps whose input register is invalid. Safe. -/
  | invalidRegister (r : Reg)
  /-- `MemRead` or `MemBytes` of `count` bytes at `addr` past the end of the frame (00 R14 "requires addr + n <= raw_len"): no
  operation and no run of steps from reset raises it, since each read comes after the length check that guards it (20 R57).
  Safe. -/
  | outOfFrame (addr count : Nat)
  /-- A step of a decoder that is not running (30 R88 "each runs whenever its decoder reaches it"): raised by the FD and AD steps,
  the ETH12 and ETYPE code points and the returns. Safe. -/
  | decoderNotRunning (d : Decoder)
  /-- A step, a code point or a `return` of a running decoder that the decoder has not reached or has passed: the steps run "in
  exactly this order" (41 R110; 42 R130, 10 R42), and the spec gives no meaning to another order of the same run (log 7). Raised by the
  FD and AD steps, the ETH12 and ETYPE code points and the returns. Safe. -/
  | stepNotReached (d : Decoder)
  /-- A formatting function on a sequence of another length than it is defined for (43 R159 "requires len(s) = 4", 41 R120
  "a 6-byte sequence"): raised by `DOTTED` and `MAC_FMT`. Safe. -/
  | lengthRequirement (wanted got : Nat)
  deriving DecidableEq, Repr

/-- Why the machine refuses to run. -/
inductive Refusal where
  /-- An instruction without a meaning yet, by its mnemonic. No arm of `exec` gives it. Safe. -/
  | notModelled (mnemonic : String)
  /-- A frame longer than `MAX_FRAME_BYTES` starts no transaction (00 R9 "is refused"). Safe. -/
  | frameTooLong
  /-- The buffer changed since the transaction started (20 R62, 93 U8: `refuse`). Safe. -/
  | bufferChanged
  /-- A request that is no well-formed row of `kind` step (30 R88). Safe. -/
  | notRequestable
  /-- The window's bits select no row of the table (30 R86, log 15). Safe. -/
  | noCodePoint (r : Reject)
  deriving DecidableEq, Repr

/-- The state after reset (10 R49, 70 R210, R212): `frame_status = NONE`, `arp_status = NOT_RUN`, every other register invalid, no
cursor, the table of 10 R47. No frame in the buffer (log 2) and nothing asked for (log 5). -/
def State.reset : State :=
  { cfg := Config.default
    raw := { cells := [], len := 0 }
    frameStatus := .none
    arpStatus := .notRun
    hdr := Header.invalid
    arp := ArpRecord.invalid
    cursor := none
    bufferHeld := false
    pending := []
    answer := none }

end Sys2Proof.Machine
end

