-- ==== Sys2Proof/Machine/Ops.lean ====
section
/-! DEFINITION. The named operations: reading the frame (00 R14), reading registers, taking a hard failure (60 R188) and the
return of a decoder (00 R15), beginning a transaction (40 R100), and running the steps of a decoder in order (41 R110, 42 R130). -/

namespace Sys2Proof.Machine

/-- What one operation answers. -/
abbrev Out := Host.Outcome State Fault Refusal

/-! ## The frame buffer -/

/-- The byte listed at an offset, or what an unlisted offset below the length holds: zero (log 1). -/
def cellAt : List Host.Cell → Nat → Byte
  | [], _ => 0#8
  | (k, v) :: rest, a => if k = a then v else cellAt rest a

/-- `raw[a]`, for an offset `a` inside the frame (20 R50). -/
def Frame.byte (f : Frame) (a : Nat) : Byte := cellAt f.cells a

/-- The list of cells with the byte at `a` replaced, in canonical form. -/
def setCell : List Host.Cell → Nat → Byte → List Host.Cell
  | [], a, b => if b = 0#8 then [] else [(a, b)]
  | (k, v) :: rest, a, b =>
    if k < a then (k, v) :: setCell rest a b
    else if k = a then (if b = 0#8 then rest else (a, b) :: rest)
    else if b = 0#8 then (k, v) :: rest else (a, b) :: (k, v) :: rest

/-- A frame with one byte replaced by the CALLER, and long enough to hold it: the block itself never writes (20 R60). -/
def Frame.set (f : Frame) (a : Nat) (b : Byte) : Frame :=
  { cells := setCell f.cells a b, len := max f.len (a + 1) }

/-- The cells of a byte sequence that stands at `base`. -/
def cellsFrom : Nat → List Byte → List Host.Cell
  | _, [] => []
  | base, b :: bs => if b = 0#8 then cellsFrom (base + 1) bs else (base, b) :: cellsFrom (base + 1) bs

/-- The frame that holds a byte sequence. -/
def Frame.ofBytes (bytes : List Byte) : Frame := { cells := cellsFrom 0 bytes, len := bytes.length }

/-- `n` bytes from offset `a` on. -/
def Frame.bytesFrom (f : Frame) (a n : Nat) : List Byte := (List.range n).map fun i => f.byte (a + i)

/-- The byte sequence `raw[0 : raw_len]`. -/
def Frame.bytes (f : Frame) : List Byte := f.bytesFrom 0 f.len

/-- `Slice(addr, n)` of 00 R14: clamped to the end of the frame, possibly empty. -/
def Frame.slice (f : Frame) (addr n : Nat) : List Byte := f.bytesFrom addr (min n (f.len - addr))

/-- Cells in canonical form: offsets at least `low` and strictly rising, no zero byte. -/
def cellsWf : Nat → List Host.Cell → Bool
  | _, [] => true
  | low, (k, v) :: rest => low ≤ k && v != 0#8 && cellsWf (k + 1) rest

/-- The canonical form of a frame: rising offsets, no entry equal to what an unlisted offset reads as, none at or past the
end. -/
def Frame.wf (f : Frame) : Bool := cellsWf 0 f.cells && f.cells.all fun c => c.1 < f.len

/-- `MemRead(addr, 2)` (00 R14). -/
def memRead16 (s : State) (addr : Nat) (k : Half → Out) : Out :=
  if addr + 2 ≤ s.raw.len then k (be16 (s.raw.byte addr) (s.raw.byte (addr + 1))) else .fault (.outOfFrame addr 2)

/-- `MemRead(addr, 4)` (00 R14). -/
def memRead32 (s : State) (addr : Nat) (k : Word → Out) : Out :=
  if addr + 4 ≤ s.raw.len then
    k (be32 (s.raw.byte addr) (s.raw.byte (addr + 1)) (s.raw.byte (addr + 2)) (s.raw.byte (addr + 3)))
  else .fault (.outOfFrame addr 4)

/-- `MemRead(addr, 1)` (00 R14). -/
def memRead8 (s : State) (addr : Nat) (k : Byte → Out) : Out :=
  if addr + 1 ≤ s.raw.len then k (s.raw.byte addr) else .fault (.outOfFrame addr 1)

/-- The six bytes from `addr` on, as an address. -/
def Frame.macAt (f : Frame) (addr : Nat) : Mac :=
  ⟨f.byte addr, f.byte (addr + 1), f.byte (addr + 2), f.byte (addr + 3), f.byte (addr + 4), f.byte (addr + 5)⟩

/-- `MemBytes(addr, 6)` (00 R14). -/
def memMac (s : State) (addr : Nat) (k : Mac → Out) : Out :=
  if addr + 6 ≤ s.raw.len then k (s.raw.macAt addr) else .fault (.outOfFrame addr 6)

/-! ## Updates of the state -/

/-- The state with other FrameDecoder registers. -/
def State.setHdr (s : State) (h : Header) : State := { s with hdr := h }

/-- The state with other ArpDecoder registers. -/
def State.setArp (s : State) (a : ArpRecord) : State := { s with arp := a }

/-- `off <- v` (00 R15), with `n` of the decoder's steps done. -/
def State.reach (s : State) (d : Decoder) (v n : Nat) : State := { s with cursor := some ⟨d, v, n⟩ }

/-- The state that hands a value to the caller (log 6). -/
def State.setAnswer (s : State) (v : Value) : State := { s with answer := some v }

/-- The state with other outstanding requests. -/
def State.setPending (s : State) (p : List Op) : State := { s with pending := p }

/-! ## Reading registers inside an operation -/

/-- A register's value, or the fault of reading an invalid register (10 R41). -/
def need {α : Type} (o : Option α) (r : Reg) (k : α → Out) : Out :=
  match o with
  | some v => k v
  | none => .fault (.invalidRegister r)

/-- A FrameDecoder register as a later operation sees it: valid only when `frame_status = OK` (10 R41). -/
def validHdr {α : Type} (s : State) (f : Header → Option α) (r : Reg) (k : α → Out) : Out :=
  if s.frameStatus = .ok then need (f s.hdr) r k else .fault (.invalidRegister r)

/-- An ArpDecoder register as a view sees it: valid only when `arp_status = OK` (10 R41, 43 R155). -/
def validArp {α : Type} (s : State) (f : ArpRecord → Option α) (r : Reg) (k : α → Out) : Out :=
  if s.arpStatus = .ok then need (f s.arp) r k else .fault (.invalidRegister r)

/-! ## Running a decoder -/

/-- The buffer is still the one the transaction started on; else the run has no meaning (20 R62). -/
def ifHeld (s : State) (k : Out) : Out :=
  if s.bufferHeld then k else .refused .bufferChanged

/-- The guard of a decoder's step: its decoder runs (30 R88), on an unchanged buffer, and has reached the step that comes after
`n` others (10 R42; log 7). `k` is given the cursor's offset. -/
def inDecoder (d : Decoder) (n : Nat) (s : State) (k : Nat → Out) : Out :=
  match s.cursor with
  | some c =>
    if c.owner = d then ifHeld s (if c.done = n then k c.off else .fault (.stepNotReached d))
    else .fault (.decoderNotRunning d)
  | none => .fault (.decoderNotRunning d)

/-- What a hard failure of a decoder drops from what is outstanding: the later steps and the return of that decoder, and after
FrameDecoder's failure, which ends the transaction (40 R104), the demultiplexing too (log 8). Requests of the caller that
are no part of that transaction stay. -/
def Op.partOf : Decoder → Op → Bool
  | .frame, .run i => i.stepOf != none || i == .demuxSel
  | .frame, .select w => w == .eth12 || w == .etype
  | .frame, .start e => e == .arpPayload
  | .frame, .ret _ => true
  | .arp, .run i => i.stepOf == some .arp
  | .arp, .ret d => d == .arp
  | .arp, .select _ => false
  | .arp, .start _ => false
  | _, .present _ => false
  | _, .read _ => false
  | _, .reset => false

/-- TAKING A HARD FAILURE, `raise TooShort(stage)` (00 R15, 60 R186 to R188): the failing decoder's status is TOO_SHORT, every
register and flag of it is invalid, the cursor has no value, no later step of it runs; nothing is saved and control goes
to no handler. `TooShort(frame)` leaves no record at all (60 R197 (d)); `TooShort(arp)` leaves the header as it is (40 R106). -/
def raiseTooShort (d : Decoder) (s : State) : State :=
  match d with
  | .frame =>
    { s with frameStatus := .tooShort, arpStatus := .notRun, hdr := Header.invalid, arp := ArpRecord.invalid, cursor := none,
             pending := s.pending.dropWhile (Op.partOf .frame) }
  | .arp =>
    { s with arpStatus := .tooShort, arp := ArpRecord.invalid, cursor := none,
             pending := s.pending.dropWhile (Op.partOf .arp) }

/-- THE RETURN of a decoder with success (00 R15, 10 R36), reached when all its steps have run: its status is OK and the cursor has
no value. After FrameDecoder there is no ArpRecord yet (40 R102). -/
def decoderReturn (d : Decoder) (s : State) : Out :=
  inDecoder d d.stepCount s fun _ =>
    match d with
    | .frame => .next { s with frameStatus := .ok, arp := ArpRecord.invalid, cursor := none }
    | .arp => .next { s with arpStatus := .ok, cursor := none }

/-- FrameDecoder's registers at the start of a transaction: all invalid, its soft-anomaly flag cleared (40 R100, 10 R35). -/
def Header.cleared : Header := { Header.invalid with wLenMismatch := some false }

/-- ArpDecoder's registers at the start of a transaction: all invalid, its soft-anomaly flags cleared (40 R100, 10 R35). -/
def ArpRecord.cleared : ArpRecord :=
  { ArpRecord.invalid with wArpUnderlen := some false, wArpTrailing := some false, wArpTrunc := some false }

/-- A frame longer than `MAX_FRAME_BYTES` (00 R9). -/
def State.tooLong (s : State) : Bool :=
  match s.cfg.maxFrameBytes with
  | none => false
  | some n => n < s.raw.len

/-- The start of a transaction on a frame (40 R100, first two lines): every register invalid, every flag cleared, the cursor at 0;
a frame longer than the bound starts none (00 R9). -/
def startFrame (s : State) : Out :=
  if s.tooLong then .refused .frameTooLong
  else .next { s with frameStatus := .none, arpStatus := .notRun, hdr := Header.cleared, arp := ArpRecord.cleared,
                      cursor := some ⟨.frame, 0, 0⟩, bufferHeld := true, answer := none }

/-- The start of ArpDecoder alone on the whole buffer (40 R107): a transaction of its own, in which no frame was decoded, so the
header is invalid and `frame_status` is NONE (10 R41; log 9). -/
def startArpWhole (s : State) : Out :=
  .next { s with frameStatus := .none, arpStatus := .notRun, hdr := Header.invalid, arp := ArpRecord.cleared,
                 cursor := some ⟨.arp, 0, 0⟩, bufferHeld := true, answer := none }

/-- ArpDecoder called on the payload of the frame just decoded (40 R100): the header must be valid and the buffer unchanged. -/
def startArpPayload (s : State) : Out :=
  validHdr s (·.payloadOff) .payloadOff fun _ =>
    validHdr s (·.payloadLen) .payloadLen fun _ =>
      ifHeld s (.next { s with arpStatus := .notRun, arp := ArpRecord.cleared, cursor := some ⟨.arp, 0, 0⟩, answer := none })

/-- The start of a run, by its entry. -/
def startRun (e : Entry) (s : State) : Out :=
  match e with
  | .frame => startFrame s
  | .arpPayload => startArpPayload s
  | .arpWhole => startArpWhole s

/-- FrameDecoder has failed in this transaction. -/
def frameFailed (s : State) : Bool := s.frameStatus == .tooShort

/-- ArpDecoder has failed in this transaction. -/
def arpFailed (s : State) : Bool := s.arpStatus == .tooShort

/-- Steps in order, until one fails hard: "no later step of it runs" (60 R188). -/
def runSteps (failed : State → Bool) : List (State → Out) → State → Out
  | [], s => .next s
  | f :: rest, s =>
    match f s with
    | .next t => if failed t then .next t else runSteps failed rest t
    | .fault r => .fault r
    | .refused r => .refused r

/-- One operation after another. -/
def andThen (o : Out) (k : State → Out) : Out :=
  match o with
  | .next t => k t
  | .fault r => .fault r
  | .refused r => .refused r

/-- The payload is not ARP: it stays opaque and there is no ArpRecord (40 R102). -/
def payloadOpaque (s : State) : State := { s with arpStatus := .notRun, arp := ArpRecord.invalid }

/-! ## The ARP payload -/

/-- Where ArpDecoder's input stands in the buffer, and its length: the payload view, or the whole buffer when ArpDecoder is
used alone (20 R51). -/
def State.arpView (s : State) : Nat × Nat :=
  match s.hdr.payloadOff, s.hdr.payloadLen with
  | some o, some n => (o, n)
  | _, _ => (0, s.raw.len)

/-- `payload_len` of ArpDecoder's input. -/
def State.arpLen (s : State) : Nat := s.arpView.2

/-- `PayRead(o, 2)` (00 R14). -/
def payRead16 (s : State) (o : Nat) (k : Half → Out) : Out := memRead16 s (s.arpView.1 + o) k

/-- `PayRead(o, 1)` (00 R14). -/
def payRead8 (s : State) (o : Nat) (k : Byte → Out) : Out := memRead8 s (s.arpView.1 + o) k

/-- `PaySlice(o, n)` (00 R14). -/
def State.paySlice (s : State) (o n : Nat) : List Byte := s.raw.slice (s.arpView.1 + o) n

end Sys2Proof.Machine
end

