-- ==== Sys2Proof/Machine/Flags.lean ====
section
/-! DEFINITION. The four soft-anomaly conditions (10 R35, 60 R189 to R192), `diag` (10 R37), and the numeric codes of 10 R36, R38, R39. -/

namespace Sys2Proof.Machine

/-- `W_LEN_MISMATCH` (41 R119): the EtherType is read as a length and the payload is shorter. -/
def lenMismatch (etherType : Half) (payloadLen : Nat) : Bool :=
  etherType.toNat ≤ Const.lenThreshold && payloadLen < etherType.toNat

/-- `W_ARP_UNDERLEN` (42 R131). -/
def arpUnderlen (payloadLen : Nat) : Bool := payloadLen < Const.arpRecommendedMin

/-- `W_ARP_TRUNC` (42 R142). -/
def arpTrunc (payloadLen consumed : Nat) : Bool := payloadLen < consumed

/-- `W_ARP_TRAILING` (42 R143): some trailing byte is not zero. -/
def anyNonZero (bytes : List Byte) : Bool := bytes.any fun b => b != 0#8

/-- `diag` as a 4-bit vector (10 R37): bit 0 `W_LEN_MISMATCH`, bit 1 `W_ARP_UNDERLEN`, bit 2 `W_ARP_TRAILING`, bit 3 `W_ARP_TRUNC`. -/
def diagBits (lenMismatch underlen trailing trunc : Bool) : BitVec 4 :=
  BitVec.ofBool trunc ++ (BitVec.ofBool trailing ++ (BitVec.ofBool underlen ++ BitVec.ofBool lenMismatch))

/-- The vector of a `diag` all of whose bits are valid. -/
def Diag.vector (d : Diag) : Option (BitVec 4) :=
  match d.bit0, d.bit1, d.bit2, d.bit3 with
  | some m, some u, some tl, some tc => some (diagBits m u tl tc)
  | _, _, _, _ => none

/-- The code of `frame_status` (10 R36). -/
def FrameStatus.code : FrameStatus → BitVec 2
  | .none => 0
  | .ok => 1
  | .tooShort => 2

/-- The code of `arp_status` (10 R36). -/
def ArpStatus.code : ArpStatus → BitVec 2
  | .notRun => 0
  | .ok => 1
  | .tooShort => 2

/-- The code of a class (10 R38). -/
def OpClass.code : OpClass → BitVec 3
  | .announcement => 0
  | .gratuitous => 1
  | .probe => 2
  | .request => 3
  | .reply => 4
  | .invalid => 5

/-- The code of a symbol (10 R39); a further symbol of an implementer's table gets a code of 4 or more. -/
def symbolCode : Symbol → Nat
  | .ethernet => 1
  | .ipv4 => 2
  | .arp => 3
  | .other n => 4 + n

/-- `TypeName` as bits (10 R39). -/
structure TypeNameBits where
  isNamed : Bool
  /-- Meaningful only when `is_named` is 1: a raw value has no symbol code. -/
  sym     : Option Nat
  /-- "always the raw field value". -/
  raw     : Half
  deriving DecidableEq, Repr

/-- The bits of a type's name, with the field it was derived from (10 R39). -/
def TypeName.bits (name : TypeName) (field : Half) : TypeNameBits :=
  match name with
  | .named sym => { isNamed := true, sym := some (symbolCode sym), raw := field }
  | .raw _ => { isNamed := false, sym := none, raw := field }

end Sys2Proof.Machine
end

