-- ==== Sys2Proof/Machine/Operands.lean ====
section
/-! DEFINITION. Operand forms: the byte sequence of a formatting function (41 R120, 43 R158, R159). -/

namespace Sys2Proof.Machine

/-- A register that holds a byte sequence; valid with its decoder's record (10 R41). -/
def seqRegValue (s : State) (r : SeqReg) (k : List Byte → Out) : Out :=
  match r with
  | .macDest => validHdr s (·.macDest) .macDest fun m => k m.toList
  | .macSrc => validHdr s (·.macSrc) .macSrc fun m => k m.toList
  | .senderHwAddr => validArp s (·.senderHwAddr) .senderHwAddr k
  | .senderProtoAddr => validArp s (·.senderProtoAddr) .senderProtoAddr k
  | .targetHwAddr => validArp s (·.targetHwAddr) .targetHwAddr k
  | .targetProtoAddr => validArp s (·.targetProtoAddr) .targetProtoAddr k

/-- The bytes of an operand: a register's, or the caller's own. -/
def seqValue (s : State) (src : SeqOperand) (k : List Byte → Out) : Out :=
  match src with
  | .reg r => seqRegValue s r k
  | .lit bytes => k bytes

end Sys2Proof.Machine
end

