-- ==== Sys2Proof/Machine/FrameDecoder.lean ====
section
/-! DEFINITION. FrameDecoder: the steps of 41 R111 to R119 and the operation of 41 R110. -/

namespace Sys2Proof.Machine

/-- `FD.LENCHK` (41 R111). -/
def execFdLenchk (s : State) : Out :=
  inDecoder .frame 0 s fun off =>
    if s.raw.len < Const.minFrameBytes then .next (raiseTooShort .frame s) else .next (s.reach .frame off 1)

/-- `FD.MACDST` (41 R112): bytes 0 to 5, cursor 6. -/
def execFdMacdst (s : State) : Out :=
  inDecoder .frame 1 s fun _ =>
    memMac s 0 fun m => .next ((s.setHdr { s.hdr with macDest := some m }).reach .frame 6 2)

/-- `FD.MACSRC` (41 R113): bytes 6 to 11, cursor 12. -/
def execFdMacsrc (s : State) : Out :=
  inDecoder .frame 2 s fun _ =>
    memMac s 6 fun m => .next ((s.setHdr { s.hdr with macSrc := some m }).reach .frame 12 3)

/-- `FD.VLANPEEK` (41 R114): the cursor's offset stays. -/
def execFdVlanpeek (s : State) : Out :=
  inDecoder .frame 3 s fun off =>
    memRead16 s 12 fun v =>
      .next ((s.setHdr { s.hdr with vlanPresent := some (v == Const.vlanMarker) }).reach .frame off 4)

/-- `FD.VLANCHK` (41 R115). -/
def execFdVlanchk (s : State) : Out :=
  inDecoder .frame 4 s fun off =>
    need s.hdr.vlanPresent .vlanPresent fun tagged =>
      if tagged && s.raw.len < Const.hdrLenTagged then .next (raiseTooShort .frame s) else .next (s.reach .frame off 5)

/-- `FD.VLANTAG` (41 R116): only in a tagged frame, cursor 16. -/
def execFdVlantag (s : State) : Out :=
  inDecoder .frame 5 s fun off =>
    need s.hdr.vlanPresent .vlanPresent fun tagged =>
      if tagged then memRead32 s 12 fun v => .next ((s.setHdr { s.hdr with vlanTag := some v }).reach .frame 16 6)
      else .next (s.reach .frame off 6)

/-- `FD.ETYPE` (41 R117): offset 16 and cursor 18 in a tagged frame, 12 and 14 else. -/
def execFdEtype (s : State) : Out :=
  inDecoder .frame 6 s fun _ =>
    need s.hdr.vlanPresent .vlanPresent fun tagged =>
      if tagged then memRead16 s 16 fun v => .next ((s.setHdr { s.hdr with etherType := some v }).reach .frame 18 7)
      else memRead16 s 12 fun v => .next ((s.setHdr { s.hdr with etherType := some v }).reach .frame 14 7)

/-- The header length that the tag's presence selects (10 R28). -/
def headerLength (tagged : Bool) : Nat := if tagged then Const.hdrLenTagged else Const.hdrLenUntagged

/-- `FD.PAYLOAD` (41 R118). The subtraction is reached only when the header is there (30 R96). -/
def execFdPayload (s : State) : Out :=
  inDecoder .frame 7 s fun off =>
    need s.hdr.vlanPresent .vlanPresent fun tagged =>
      if headerLength tagged ≤ s.raw.len then
        .next ((s.setHdr { s.hdr with hdrLen := some (headerLength tagged), payloadOff := some (headerLength tagged),
                                      payloadLen := some (s.raw.len - headerLength tagged) }).reach .frame off 8)
      else .fault (.outOfFrame 0 (headerLength tagged))

/-- What `FD.LENWARN` does with an EtherType (41 R119): the flag is 1 exactly when the condition holds (60 R189, log 16). -/
def lenwarnOf (etherType : Half) (off : Nat) (s : State) : Out :=
  need s.hdr.payloadLen .payloadLen fun n =>
    .next ((s.setHdr { s.hdr with wLenMismatch := some (lenMismatch etherType n) }).reach .frame off 9)

/-- `FD.LENWARN` (41 R119). -/
def execFdLenwarn (s : State) : Out :=
  inDecoder .frame 8 s fun off => need s.hdr.etherType .etherType fun et => lenwarnOf et off s

/-- The steps of FrameDecoder in the order of 41 R110. -/
def frameSteps : List (State → Out) :=
  [execFdLenchk, execFdMacdst, execFdMacsrc, execFdVlanpeek, execFdVlanchk, execFdVlantag, execFdEtype, execFdPayload,
   execFdLenwarn]

/-- `FRAME_DECODE` (41 R110): a transaction's start, the steps, and the return. -/
def execFrameDecode (s : State) : Out :=
  runSteps frameFailed (startFrame :: (frameSteps ++ [decoderReturn .frame])) s

end Sys2Proof.Machine
end

