-- ==== Sys2Proof/Machine/ArpDecoder.lean ====
section
/-! DEFINITION. ArpDecoder: the steps of 42 R131 to R143 and the operation of 42 R130. -/

namespace Sys2Proof.Machine

/-- `AD.LENCHK` (42 R131): the flag is 1 exactly when the payload is under 28 bytes (60 R190, log 16). -/
def execAdLenchk (s : State) : Out :=
  inDecoder .arp 0 s fun off =>
    .next ((s.setArp { s.arp with wArpUnderlen := some (arpUnderlen s.arpLen) }).reach .arp off 1)

/-- `AD.HDRCHK` (42 R132). -/
def execAdHdrchk (s : State) : Out :=
  inDecoder .arp 1 s fun off =>
    if s.arpLen < Const.arpFixedLen then .next (raiseTooShort .arp s) else .next (s.reach .arp off 2)

/-- `AD.HTYPE` (42 R133). -/
def execAdHtype (s : State) : Out :=
  inDecoder .arp 2 s fun _ =>
    payRead16 s 0 fun v => .next ((s.setArp { s.arp with hardwareType := some v }).reach .arp 2 3)

/-- `AD.PTYPE` (42 R134). -/
def execAdPtype (s : State) : Out :=
  inDecoder .arp 3 s fun _ =>
    payRead16 s 2 fun v => .next ((s.setArp { s.arp with protocolType := some v }).reach .arp 4 4)

/-- `AD.HLEN` (42 R135). -/
def execAdHlen (s : State) : Out :=
  inDecoder .arp 4 s fun _ =>
    payRead8 s 4 fun v => .next ((s.setArp { s.arp with hardwareLen := some v }).reach .arp 5 5)

/-- `AD.PLEN` (42 R136). -/
def execAdPlen (s : State) : Out :=
  inDecoder .arp 5 s fun _ =>
    payRead8 s 5 fun v => .next ((s.setArp { s.arp with protocolLen := some v }).reach .arp 6 6)

/-- `AD.OPER` (42 R137). -/
def execAdOper (s : State) : Out :=
  inDecoder .arp 6 s fun _ =>
    payRead16 s 6 fun v => .next ((s.setArp { s.arp with operation := some v }).reach .arp 8 7)

/-- `AD.SHA` (42 R138): the slice at the cursor; the cursor advances by the declared length. -/
def execAdSha (s : State) : Out :=
  inDecoder .arp 7 s fun off =>
    need s.arp.hardwareLen .hardwareLen fun h =>
      .next ((s.setArp { s.arp with senderHwAddr := some (s.paySlice off h.toNat) }).reach .arp (off + h.toNat) 8)

/-- `AD.SPA` (42 R139). -/
def execAdSpa (s : State) : Out :=
  inDecoder .arp 8 s fun off =>
    need s.arp.protocolLen .protocolLen fun p =>
      .next ((s.setArp { s.arp with senderProtoAddr := some (s.paySlice off p.toNat) }).reach .arp (off + p.toNat) 9)

/-- `AD.THA` (42 R140): the same `hardware_len` as for the sender. -/
def execAdTha (s : State) : Out :=
  inDecoder .arp 9 s fun off =>
    need s.arp.hardwareLen .hardwareLen fun h =>
      .next ((s.setArp { s.arp with targetHwAddr := some (s.paySlice off h.toNat) }).reach .arp (off + h.toNat) 10)

/-- `AD.TPA` (42 R141): also `arp_consumed <- off`. -/
def execAdTpa (s : State) : Out :=
  inDecoder .arp 10 s fun off =>
    need s.arp.protocolLen .protocolLen fun p =>
      .next ((s.setArp { s.arp with targetProtoAddr := some (s.paySlice off p.toNat),
                                    arpConsumed := some (off + p.toNat) }).reach .arp (off + p.toNat) 11)

/-- `AD.TRUNC` (42 R142): the flag is 1 exactly when the payload ends before the declared fields (60 R192, log 16). -/
def execAdTrunc (s : State) : Out :=
  inDecoder .arp 11 s fun off =>
    need s.arp.arpConsumed .arpConsumed fun c =>
      .next ((s.setArp { s.arp with wArpTrunc := some (arpTrunc s.arpLen c) }).reach .arp off 12)

/-- `AD.TRAIL` (42 R143): the trailing view and the flag, one for the whole range (log 16). The cursor's offset
stays. -/
def execAdTrail (s : State) : Out :=
  inDecoder .arp 12 s fun off =>
    need s.arp.arpConsumed .arpConsumed fun c =>
      .next ((s.setArp { s.arp with trailOff := some c, trailLen := some (s.arpLen - c),
                                    wArpTrailing := some (anyNonZero (s.paySlice c (s.arpLen - c))) }).reach .arp off 13)

/-- The steps of ArpDecoder in the order of 42 R130. -/
def arpSteps : List (State → Out) :=
  [execAdLenchk, execAdHdrchk, execAdHtype, execAdPtype, execAdHlen, execAdPlen, execAdOper, execAdSha, execAdSpa, execAdTha,
   execAdTpa, execAdTrunc, execAdTrail]

/-- ArpDecoder from one of its two entries: the start, the steps, the return. -/
def arpRun (e : Entry) (s : State) : Out :=
  runSteps arpFailed (startRun e :: (arpSteps ++ [decoderReturn .arp])) s

/-- `ARP_DECODE` (42 R130): on the payload of the frame just decoded, or alone on the whole buffer (40 R107). -/
def execArpDecode (src : ArpInput) (s : State) : Out :=
  match src with
  | .payload => arpRun .arpPayload s
  | .whole => arpRun .arpWhole s

end Sys2Proof.Machine
end

