-- ==== Sys2Proof/Machine/Pipeline.lean ====
section
/-! DEFINITION. The pipeline and the ARP demultiplexer (40 R100, R101). -/

namespace Sys2Proof.Machine

/-- The demultiplexing decision (40 R101). -/
def selectsArp (etherType : Half) : Bool := etherType == Const.etypeArp

/-- `DEMUX.SEL` (40 R101): one bit, from the resolved EtherType. -/
def execDemuxSel (s : State) : Out :=
  validHdr s (·.etherType) .etherType fun et => .next (s.setAnswer (.bit (selectsArp et)))

/-- `DEMUX` (40 R100): FrameDecoder, then ArpDecoder on the payload when the EtherType is ARP. A failure of FrameDecoder ends the
transaction (40 R104). -/
def execDemux (s : State) : Out :=
  andThen (execFrameDecode s) fun t =>
    if frameFailed t then .next t
    else validHdr t (·.etherType) .etherType fun et =>
      if selectsArp et then arpRun .arpPayload t else .next (payloadOpaque t)

end Sys2Proof.Machine
end

