-- ==== Sys2Proof/Machine/Views.lean ====
section
/-! DEFINITION. The views and helper functions (41 R120, 43 R155 to R163, 44 R170 to R178): pure functions of the registers, computed
at each use; what they return is handed to the caller (log 6). -/

namespace Sys2Proof.Machine

/-! ## Text -/

/-- A hexadecimal digit, lower case (41 R120). -/
def hexDigit (n : Nat) : Char := if n < 10 then Char.ofNat (48 + n) else Char.ofNat (87 + n)

/-- `hex2` (41 R120): two digits, a leading zero where needed. -/
def hex2 (b : Byte) : List Char := [hexDigit (b.toNat / 16), hexDigit (b.toNat % 16)]

/-- `MAC_FMT` (41 R120), defined on 6-byte sequences. -/
def macText : List Byte → Option (List Char)
  | [m0, m1, m2, m3, m4, m5] =>
    some (hex2 m0 ++ ':' :: (hex2 m1 ++ ':' :: (hex2 m2 ++ ':' :: (hex2 m3 ++ ':' :: (hex2 m4 ++ ':' :: hex2 m5)))))
  | _ => none

/-- `HEXJOIN` (43 R158), of any length. -/
def hexJoin : List Byte → List Char
  | [] => []
  | [b] => hex2 b
  | b :: c :: rest => hex2 b ++ ':' :: hexJoin (c :: rest)

/-- A decimal digit. -/
def decDigit (n : Nat) : Char := Char.ofNat (48 + n)

/-- `dec` (43 R159): the decimal numeral of a byte without leading zeros (30 R97). -/
def dec (b : Byte) : List Char :=
  if b.toNat < 10 then [decDigit b.toNat]
  else if b.toNat < 100 then [decDigit (b.toNat / 10), decDigit (b.toNat % 10)]
  else [decDigit (b.toNat / 100), decDigit (b.toNat / 10 % 10), decDigit (b.toNat % 10)]

/-- `DOTTED` (43 R159), defined on 4-byte sequences. -/
def dottedText : List Byte → Option (List Char)
  | [a, b, c, d] => some (dec a ++ '.' :: (dec b ++ '.' :: (dec c ++ '.' :: dec d)))
  | _ => none

/-! ## Type names and renderings -/

/-- `hardware_type_name` (43 R156). -/
def hwName (hardwareType : Half) : TypeName :=
  if hardwareType = Const.htypeEthernet then .named .ethernet else .raw hardwareType

/-- `protocol_type_name` (43 R157). -/
def ptName (names : List (Half × Symbol)) (protocolType : Half) : TypeName :=
  match symbolOf names protocolType with
  | some sym => .named sym
  | none => .raw protocolType

/-- Rendering of a hardware address (43 R162, R163). -/
def renderHw (hardwareType : Half) (addr : List Byte) : Rendered :=
  if hwName hardwareType = .named .ethernet then .text (hexJoin addr) else .bytes addr

/-- Rendering of a protocol address (43 R160, R161): dotted decimal only of an IPv4-typed address of four bytes. -/
def renderProto (names : List (Half × Symbol)) (protocolType : Half) (addr : List Byte) : Rendered :=
  if ptName names protocolType = .named .ipv4 then
    match dottedText addr with
    | some t => .text t
    | none => .bytes addr
  else .bytes addr

/-! ## Classification -/

/-- `operation_class` (44 R170): the first condition that holds decides. Equality of addresses is equality of byte sequences
(44 R177); the zero constants have six and four bytes (44 R178). -/
def classify (operation : Half) (sha spa tha tpa : List Byte) : OpClass :=
  if spa = tpa ∧ sha = tha then .announcement
  else if tpa = spa ∧ tha = Const.zeroMac then .gratuitous
  else if operation = Const.opRequest ∧ tpa = Const.zeroIpv4 then .probe
  else if operation = Const.opRequest then .request
  else if operation = Const.opReply then .reply
  else .invalid

/-! ## The instructions -/

/-- `MAC_FMT` (41 R120). -/
def execMacFmt (src : SeqOperand) (s : State) : Out :=
  seqValue s src fun bytes =>
    match macText bytes with
    | some t => .next (s.setAnswer (.text t))
    | none => .fault (.lengthRequirement Const.macLen bytes.length)

/-- `HEXJOIN` (43 R158). -/
def execHexjoin (src : SeqOperand) (s : State) : Out :=
  seqValue s src fun bytes => .next (s.setAnswer (.text (hexJoin bytes)))

/-- `DOTTED` (43 R159). -/
def execDotted (src : SeqOperand) (s : State) : Out :=
  seqValue s src fun bytes =>
    match dottedText bytes with
    | some t => .next (s.setAnswer (.text t))
    | none => .fault (.lengthRequirement 4 bytes.length)

/-- `AV.HWNAME` (43 R156). -/
def execAvHwname (s : State) : Out :=
  validArp s (·.hardwareType) .hardwareType fun ht => .next (s.setAnswer (.typeName (hwName ht) ht))

/-- `AV.PTNAME` (43 R157). -/
def execAvPtname (s : State) : Out :=
  validArp s (·.protocolType) .protocolType fun pt => .next (s.setAnswer (.typeName (ptName s.cfg.etypeNames pt) pt))

/-- `AV.SPA_STR` (43 R160). -/
def execAvSpaStr (s : State) : Out :=
  validArp s (·.protocolType) .protocolType fun pt =>
    validArp s (·.senderProtoAddr) .senderProtoAddr fun a =>
      .next (s.setAnswer (.rendered (renderProto s.cfg.etypeNames pt a)))

/-- `AV.TPA_STR` (43 R161). -/
def execAvTpaStr (s : State) : Out :=
  validArp s (·.protocolType) .protocolType fun pt =>
    validArp s (·.targetProtoAddr) .targetProtoAddr fun a =>
      .next (s.setAnswer (.rendered (renderProto s.cfg.etypeNames pt a)))

/-- `AV.SHA_STR` (43 R162). -/
def execAvShaStr (s : State) : Out :=
  validArp s (·.hardwareType) .hardwareType fun ht =>
    validArp s (·.senderHwAddr) .senderHwAddr fun a => .next (s.setAnswer (.rendered (renderHw ht a)))

/-- `AV.THA_STR` (43 R163). -/
def execAvThaStr (s : State) : Out :=
  validArp s (·.hardwareType) .hardwareType fun ht =>
    validArp s (·.targetHwAddr) .targetHwAddr fun a => .next (s.setAnswer (.rendered (renderHw ht a)))

/-- `AV.OPCLASS` (44 R170). -/
def execAvOpclass (s : State) : Out :=
  validArp s (·.operation) .operation fun op =>
    validArp s (·.senderHwAddr) .senderHwAddr fun sha =>
      validArp s (·.senderProtoAddr) .senderProtoAddr fun spa =>
        validArp s (·.targetHwAddr) .targetHwAddr fun tha =>
          validArp s (·.targetProtoAddr) .targetProtoAddr fun tpa =>
            .next (s.setAnswer (.opClass (classify op sha spa tha tpa)))

end Sys2Proof.Machine
end

