-- ==== Sys2Proof/Machine/CodePoints.lean ====
section
/-! DEFINITION. The code-point rows (30 R83 to R87): what selecting each of them makes the block do (log 12). -/

namespace Sys2Proof.Machine

/-- `CP.ETH12.VLAN` (30 R83): format `F-ETHQ`. In the place of FD.VLANPEEK `vlan_present = 1`, and FrameDecoder goes on as in a
tagged frame: the length check, the tag, the EtherType at offset 16, the payload after 18 bytes. -/
def execCpEth12Vlan (s : State) : Out :=
  inDecoder .frame 3 s fun off =>
    runSteps frameFailed [execFdVlanchk, execFdVlantag, execFdEtype, execFdPayload]
      ((s.setHdr { s.hdr with vlanPresent := some true }).reach .frame off 4)

/-- `CP.ETH12.PLAIN` (30 R83): format `F-ETH`. In the place of FD.VLANPEEK `vlan_present = 0`, the 16 bits are the EtherType, the
payload comes after 14 bytes. -/
def execCpEth12Plain (etherType : Half) (s : State) : Out :=
  inDecoder .frame 3 s fun _ =>
    execFdPayload ((s.setHdr { s.hdr with vlanPresent := some false, etherType := some etherType }).reach .frame 14 7)

/-- What remains of FrameDecoder when its EtherType decides (30 R84): in a run that has reached FD.LENWARN, that step and the
return; nothing after a return, on the buffer that was decoded (log 12, log 18). No header register gets a second writer
(10 R42). -/
def finishFrame (etherType : Half) (s : State) : Out :=
  match s.cursor with
  | some _ => inDecoder .frame 8 s fun off => andThen (lenwarnOf etherType off s) (decoderReturn .frame)
  | none => validHdr s (·.etherType) .etherType fun _ => ifHeld s (.next s)

/-- `CP.ETYPE.ARP` (30 R84, 40 R101): `DEMUX.SEL` is 1 and ArpDecoder runs on the payload. -/
def execCpEtypeArp (s : State) : Out := andThen (finishFrame Const.etypeArp s) (arpRun .arpPayload)

/-- A frame whose EtherType is not ARP: FrameDecoder ends, the payload is opaque and there is no ArpRecord (40 R102). That this drops
the record of an ARP_DECODE that has already run on the payload is the model's choice (log 24). -/
def notArp (etherType : Half) (s : State) : Out :=
  andThen (finishFrame etherType s) fun t => .next (payloadOpaque t)

/-- `CP.ETYPE.LENGTH` (30 R84): the value is a payload length that FD.LENWARN compares with `payload_len`; the payload is opaque. -/
def execCpEtypeLength (length : Half) (s : State) : Out := notArp length s

/-- `CP.ETYPE.OTHER` (30 R84): the payload is opaque, no flag (the value is above 1500). -/
def execCpEtypeOther (etherType : Half) (s : State) : Out := notArp etherType s

/-- The rendering rule of a hardware type (43 R162, R163). -/
def hwRule (name : TypeName) : RenderRule := if name = .named .ethernet then .hexJoined else .rawBytes

/-- The rendering rule of a protocol type (43 R160, R161). -/
def protoRule (name : TypeName) : RenderRule := if name = .named .ipv4 then .dottedIfFour else .rawBytes

/-- What a type's code point decides: its name and the rendering rule. -/
def hwNaming (hardwareType : Half) : Value := .naming (hwName hardwareType) (hwRule (hwName hardwareType))

/-- `CP.HTYPE.ETHERNET` (30 R85): the value 1 is named `Ethernet`. -/
def execCpHtypeEthernet (s : State) : Out := .next (s.setAnswer (hwNaming Const.htypeEthernet))

/-- `CP.HTYPE.OTHER` (30 R85): the value has no name and is passed through. -/
def execCpHtypeOther (hardwareType : Half) (s : State) : Out := .next (s.setAnswer (hwNaming hardwareType))

/-- What a protocol type's code point decides, by the table. -/
def protoNaming (names : List (Half × Symbol)) (protocolType : Half) : Value :=
  .naming (ptName names protocolType) (protoRule (ptName names protocolType))

/-- `CP.PTYPE.IPV4` (30 R86). -/
def execCpPtypeIpv4 (s : State) : Out := .next (s.setAnswer (protoNaming s.cfg.etypeNames Const.etypeIpv4))

/-- `CP.PTYPE.ARP` (30 R86). -/
def execCpPtypeArp (s : State) : Out := .next (s.setAnswer (protoNaming s.cfg.etypeNames Const.etypeArp))

/-- `CP.PTYPE.OTHER` (30 R86). -/
def execCpPtypeOther (protocolType : Half) (s : State) : Out :=
  .next (s.setAnswer (protoNaming s.cfg.etypeNames protocolType))

/-- The kind of an operation value (30 R87). -/
def operKind (operation : Half) : OperKind :=
  if operation = Const.opRequest then .request else if operation = Const.opReply then .reply else .neither

/-- The classes a packet of each kind can have (44 R180): outcomes 1 and 2 whatever the operation, then 3 and 4 of a request, 5 of
a reply, 6 of neither. -/
def OperKind.reachable : OperKind → List OpClass
  | .request => [.announcement, .gratuitous, .probe, .request]
  | .reply => [.announcement, .gratuitous, .reply]
  | .neither => [.announcement, .gratuitous, .invalid]

/-- What an operation's code point decides. -/
def operDecision (operation : Half) : Value := .opcode (operKind operation) (operKind operation).reachable

/-- `CP.OPER.REQUEST` (30 R87). -/
def execCpOperRequest (s : State) : Out := .next (s.setAnswer (operDecision Const.opRequest))

/-- `CP.OPER.REPLY` (30 R87). -/
def execCpOperReply (s : State) : Out := .next (s.setAnswer (operDecision Const.opReply))

/-- `CP.OPER.OTHER` (30 R87): no decode error. -/
def execCpOperOther (operation : Half) (s : State) : Out := .next (s.setAnswer (operDecision operation))

end Sys2Proof.Machine
end

