-- ==== Sys2Proof/Machine/Caller.lean ====
section
/-! DEFINITION. What the caller does to the block (10 R20, R21; 70 R210, R212), and the bits of a code-point window (30 R88). -/

namespace Sys2Proof.Machine

/-- The caller fills the buffer. The registers are copies and stay (20 R62); the payload view of an earlier frame, and a run in
progress, have lost their buffer. -/
def presentFrame (bytes : List Byte) (s : State) : State :=
  { s with raw := Frame.ofBytes bytes, bufferHeld := false }

/-- Reset (70 R210): the state after reset, but the parameters and the caller's buffer stay (70 R212), and so does what the caller
asks for next. -/
def resetBlock (s : State) : State :=
  { State.reset with cfg := s.cfg, raw := s.raw, pending := s.pending }

/-- A read of a FrameDecoder register (10 R41). -/
def headerRead {α : Type} (s : State) (o : Option α) (v : α → Value) : Option Value :=
  if s.frameStatus = .ok then o.map v else none

/-- A read of an ArpDecoder register (10 R41). -/
def arpRead {α : Type} (s : State) (o : Option α) (v : α → Value) : Option Value :=
  if s.arpStatus = .ok then o.map v else none

/-- `diag` (10 R37), bit for bit as the flags are valid (10 R41): bit 0 with a header (95 P3 "only diag[0] is valid"), bits 1 to 3
with an ArpRecord, which ARP_DECODE alone gives too (95 2.6). -/
def diagOf (s : State) : Diag :=
  { bit0 := if s.frameStatus = .ok then s.hdr.wLenMismatch else none
    bit1 := if s.arpStatus = .ok then s.arp.wArpUnderlen else none
    bit2 := if s.arpStatus = .ok then s.arp.wArpTrailing else none
    bit3 := if s.arpStatus = .ok then s.arp.wArpTrunc else none }

/-- A read of `diag`: invalid when none of its bits is valid (log 20). -/
def diagRead (s : State) : Option Value :=
  if diagOf s = ⟨none, none, none, none⟩ then none else some (.diag (diagOf s))

/-- The payload `raw[payload_off : raw_len]` (10 R28): a view of the caller's buffer. -/
def payloadRead (s : State) : Option Value :=
  if s.frameStatus = .ok then
    match s.hdr.payloadOff, s.hdr.payloadLen with
    | some o, some n => some (.bytes (s.raw.slice o n))
    | _, _ => none
  else none

/-- The trailing bytes `payload[trail_off : trail_off + trail_len]` (10 R33): a view of the caller's buffer. -/
def trailingRead (s : State) : Option Value :=
  if s.arpStatus = .ok then
    match s.arp.trailOff, s.arp.trailLen with
    | some o, some n => some (.bytes (s.paySlice o n))
    | _, _ => none
  else none

/-- The value of a register as the caller may see it, `none` when the register is invalid (10 R41). -/
def regValue (s : State) : Reg → Option Value
  | .frameStatus => some (.frameStatus s.frameStatus)
  | .arpStatus => some (.arpStatus s.arpStatus)
  | .macDest => headerRead s s.hdr.macDest fun m => .bytes m.toList
  | .macSrc => headerRead s s.hdr.macSrc fun m => .bytes m.toList
  | .vlanPresent => headerRead s s.hdr.vlanPresent .bit
  | .vlanTag => headerRead s s.hdr.vlanTag .word
  | .etherType => headerRead s s.hdr.etherType .half
  | .hdrLen => headerRead s s.hdr.hdrLen .nat
  | .payloadOff => headerRead s s.hdr.payloadOff .nat
  | .payloadLen => headerRead s s.hdr.payloadLen .nat
  | .payload => payloadRead s
  | .wLenMismatch => headerRead s s.hdr.wLenMismatch .bit
  | .hardwareType => arpRead s s.arp.hardwareType .half
  | .protocolType => arpRead s s.arp.protocolType .half
  | .hardwareLen => arpRead s s.arp.hardwareLen .byte
  | .protocolLen => arpRead s s.arp.protocolLen .byte
  | .operation => arpRead s s.arp.operation .half
  | .senderHwAddr => arpRead s s.arp.senderHwAddr .bytes
  | .senderProtoAddr => arpRead s s.arp.senderProtoAddr .bytes
  | .targetHwAddr => arpRead s s.arp.targetHwAddr .bytes
  | .targetProtoAddr => arpRead s s.arp.targetProtoAddr .bytes
  | .arpConsumed => arpRead s s.arp.arpConsumed .nat
  | .trailOff => arpRead s s.arp.trailOff .nat
  | .trailLen => arpRead s s.arp.trailLen .nat
  | .trailing => trailingRead s
  | .wArpUnderlen => arpRead s s.arp.wArpUnderlen .bit
  | .wArpTrailing => arpRead s s.arp.wArpTrailing .bit
  | .wArpTrunc => arpRead s s.arp.wArpTrunc .bit
  | .diag => diagRead s

/-- The two views into the caller's buffer, which a read must find unchanged (20 R62). -/
def Reg.isView : Reg → Bool
  | .payload | .trailing => true
  | _ => false

/-- The caller reads a register: an invalid one faults (10 R41, 70 R210, R216). -/
def readRegister (r : Reg) (s : State) : Out :=
  match regValue s r with
  | none => .fault (.invalidRegister r)
  | some v => if r.isView then ifHeld s (.next (s.setAnswer v)) else .next (s.setAnswer v)

/-- The bits of a window (30 R88): ETH12 is `be16(raw, 12)` when FrameDecoder reaches the peek at it; ETYPE is the resolved
`ether_type`, when FrameDecoder reaches FD.LENWARN or has returned; the ARP windows are registers. -/
def windowBytes (w : Window) (s : State) (k : List Byte → Out) : Out :=
  match w with
  | .eth12 => inDecoder .frame 3 s fun _ => memRead16 s 12 fun v => k (halfBytes v)
  | .etype =>
    match s.cursor with
    | some _ => inDecoder .frame 8 s fun _ => need s.hdr.etherType .etherType fun v => k (halfBytes v)
    | none => validHdr s (·.etherType) .etherType fun v => k (halfBytes v)
  | .arpHtype => validArp s (·.hardwareType) .hardwareType fun v => k (halfBytes v)
  | .arpPtype => validArp s (·.protocolType) .protocolType fun v => k (halfBytes v)
  | .arpOper => validArp s (·.operation) .operation fun v => k (halfBytes v)

/-- The frame with the bits `v` at offset 12, 22 bytes or longer: an untagged frame with a payload of 8 bytes or more. -/
def frameWith (v : Half) (f : Frame) : Frame :=
  ((((((f.set 12 (hiByte v)).set 13 (loByte v)).set 14 0).set 15 0).set 16 0).set 17 0).set 21 0

/-- The state in which a window's bits are `v`, with all that this takes: for ETH12 a FrameDecoder that has reached the peek at
offset 12; for ETYPE one that has reached FD.LENWARN in an untagged frame of that EtherType; a valid register for the ARP
windows. -/
def placeWindow (w : Window) (v : Half) (s : State) : State :=
  match w with
  | .eth12 =>
    { s with raw := frameWith v s.raw, frameStatus := .none, arpStatus := .notRun, bufferHeld := true, arp := ArpRecord.cleared,
             hdr := { Header.cleared with macDest := some ((frameWith v s.raw).macAt 0), macSrc := some ((frameWith v s.raw).macAt 6) },
             cursor := some ⟨.frame, 12, 3⟩ }
  | .etype =>
    { s with raw := frameWith v s.raw, frameStatus := .none, arpStatus := .notRun, bufferHeld := true, arp := ArpRecord.cleared,
             hdr := { Header.cleared with macDest := some ((frameWith v s.raw).macAt 0), macSrc := some ((frameWith v s.raw).macAt 6),
                                          vlanPresent := some false, etherType := some v, hdrLen := some 14,
                                          payloadOff := some 14, payloadLen := some ((frameWith v s.raw).len - 14) },
             cursor := some ⟨.frame, 14, 8⟩ }
  | .arpHtype => { s with arpStatus := .ok, arp := { s.arp with hardwareType := some v } }
  | .arpPtype => { s with arpStatus := .ok, arp := { s.arp with protocolType := some v } }
  | .arpOper => { s with arpStatus := .ok, arp := { s.arp with operation := some v } }

end Sys2Proof.Machine
end

