-- ==== Sys2Proof/Machine/Dispatch.lean ====
section
/-! DEFINITION. The dispatch: one arm for each constructor of `Instr`, each one call of that instruction's meaning. -/

namespace Sys2Proof.Machine

def exec (i : Instr) (s : State) : Host.Outcome State Fault Refusal :=
  match i with
  | .cpEth12Vlan => Sys2Proof.Machine.execCpEth12Vlan s
  | .cpEth12Plain etherType => Sys2Proof.Machine.execCpEth12Plain etherType s
  | .cpEtypeArp => Sys2Proof.Machine.execCpEtypeArp s
  | .cpEtypeLength length => Sys2Proof.Machine.execCpEtypeLength length s
  | .cpEtypeOther etherType => Sys2Proof.Machine.execCpEtypeOther etherType s
  | .cpHtypeEthernet => Sys2Proof.Machine.execCpHtypeEthernet s
  | .cpHtypeOther hardwareType => Sys2Proof.Machine.execCpHtypeOther hardwareType s
  | .cpPtypeIpv4 => Sys2Proof.Machine.execCpPtypeIpv4 s
  | .cpPtypeArp => Sys2Proof.Machine.execCpPtypeArp s
  | .cpPtypeOther protocolType => Sys2Proof.Machine.execCpPtypeOther protocolType s
  | .cpOperRequest => Sys2Proof.Machine.execCpOperRequest s
  | .cpOperReply => Sys2Proof.Machine.execCpOperReply s
  | .cpOperOther operation => Sys2Proof.Machine.execCpOperOther operation s
  | .demux => Sys2Proof.Machine.execDemux s
  | .demuxSel => Sys2Proof.Machine.execDemuxSel s
  | .frameDecode => Sys2Proof.Machine.execFrameDecode s
  | .fdLenchk => Sys2Proof.Machine.execFdLenchk s
  | .fdMacdst => Sys2Proof.Machine.execFdMacdst s
  | .fdMacsrc => Sys2Proof.Machine.execFdMacsrc s
  | .fdVlanpeek => Sys2Proof.Machine.execFdVlanpeek s
  | .fdVlanchk => Sys2Proof.Machine.execFdVlanchk s
  | .fdVlantag => Sys2Proof.Machine.execFdVlantag s
  | .fdEtype => Sys2Proof.Machine.execFdEtype s
  | .fdPayload => Sys2Proof.Machine.execFdPayload s
  | .fdLenwarn => Sys2Proof.Machine.execFdLenwarn s
  | .macFmt src => Sys2Proof.Machine.execMacFmt src s
  | .arpDecode src => Sys2Proof.Machine.execArpDecode src s
  | .adLenchk => Sys2Proof.Machine.execAdLenchk s
  | .adHdrchk => Sys2Proof.Machine.execAdHdrchk s
  | .adHtype => Sys2Proof.Machine.execAdHtype s
  | .adPtype => Sys2Proof.Machine.execAdPtype s
  | .adHlen => Sys2Proof.Machine.execAdHlen s
  | .adPlen => Sys2Proof.Machine.execAdPlen s
  | .adOper => Sys2Proof.Machine.execAdOper s
  | .adSha => Sys2Proof.Machine.execAdSha s
  | .adSpa => Sys2Proof.Machine.execAdSpa s
  | .adTha => Sys2Proof.Machine.execAdTha s
  | .adTpa => Sys2Proof.Machine.execAdTpa s
  | .adTrunc => Sys2Proof.Machine.execAdTrunc s
  | .adTrail => Sys2Proof.Machine.execAdTrail s
  | .avHwname => Sys2Proof.Machine.execAvHwname s
  | .avPtname => Sys2Proof.Machine.execAvPtname s
  | .hexjoin src => Sys2Proof.Machine.execHexjoin src s
  | .dotted src => Sys2Proof.Machine.execDotted src s
  | .avSpaStr => Sys2Proof.Machine.execAvSpaStr s
  | .avTpaStr => Sys2Proof.Machine.execAvTpaStr s
  | .avShaStr => Sys2Proof.Machine.execAvShaStr s
  | .avThaStr => Sys2Proof.Machine.execAvThaStr s
  | .avOpclass => Sys2Proof.Machine.execAvOpclass s

end Sys2Proof.Machine
end

