-- ==== Sys2Proof/Machine/Step.lean ====
section
/-! DEFINITION. One step: the next thing the caller asked for (log 5). -/

namespace Sys2Proof.Machine

/-- The code point a window's bits select, run; or the refusal of a value that no row covers. -/
def runWindow (w : Window) (s : State) : Out :=
  windowBytes w s fun bytes =>
    match decode s.cfg.etypeNames w bytes with
    | .ok i => exec i s
    | .error r => .refused (.noCodePoint r)

/-- One request of the caller. -/
def doOp (op : Op) (s : State) : Out :=
  match op with
  | .present bytes => .next (presentFrame bytes s)
  | .run i => if i.requestable s.cfg.etypeNames then exec i s else .refused .notRequestable
  | .select w => runWindow w s
  | .start e => startRun e s
  | .ret d => decoderReturn d s
  | .read r => readRegister r s
  | .reset => .next (resetBlock s)

/-- One step of the machine. With nothing asked for the block holds its last result (60 R205). -/
def step (s : State) : Host.Outcome State Fault Refusal :=
  match s.pending with
  | [] => .next s
  | op :: rest => doOp op (s.setPending rest)

/-- The state whose next step runs exactly the instruction whose bits are `w`: the window holds the bits and is the next thing
asked for (log 5, log 13). -/
def State.withFetchWord (s : State) (nbits w : Nat) : State :=
  let window := tableWindow w
  (placeWindow window (BitVec.ofNat 16 (w % 2 ^ nbits)) s).setPending (.select window :: s.pending)

end Sys2Proof.Machine
end

