-- ==== Sys2Proof/Safety.lean ====
section
/-! DEFINITION. The terms of the statements: when a decoder runs, what the header registers must say of the frame, the
invariants, and the step-by-step form of an operation. -/

namespace Sys2Proof.Machine

/-- FrameDecoder runs on an unchanged buffer and has reached the step after `n` others, its cursor at `c`. -/
def State.FrameAt (s : State) (n c : Nat) : Prop := s.bufferHeld = true ∧ s.cursor = some ⟨.frame, c, n⟩

/-- ArpDecoder runs on an unchanged buffer and has reached the step after `n` others, its cursor at `c`. -/
def State.ArpAt (s : State) (n c : Nat) : Prop := s.bufferHeld = true ∧ s.cursor = some ⟨.arp, c, n⟩

/-- The bytes of ArpDecoder's input (42 R130): the payload view of the buffer, or the whole buffer when it is used alone. -/
def State.arpInput (s : State) : List Byte := s.paySlice 0 s.arpLen

/-- ArpDecoder's input lies inside the buffer: true whenever FrameDecoder wrote the payload view of this buffer (41 R122). -/
def State.ArpInputInFrame (s : State) : Prop := s.arpView.1 + s.arpView.2 ≤ s.raw.len

/-- 16 bits of a byte sequence at an offset, as a number (00 R12: `be16(s, o) = s[o]*256 + s[o+1]`). -/
def be16At (bytes : List Byte) (o : Nat) : Nat := (bytes.getD o 0#8).toNat * 256 + (bytes.getD (o + 1) 0#8).toNat

/-- 32 bits of a byte sequence at an offset, as a number (00 R12). -/
def be32At (bytes : List Byte) (o : Nat) : Nat :=
  (bytes.getD o 0#8).toNat * 2 ^ 24 + (bytes.getD (o + 1) 0#8).toNat * 2 ^ 16 + (bytes.getD (o + 2) 0#8).toNat * 2 ^ 8
    + (bytes.getD (o + 3) 0#8).toNat

/-- A frame is tagged exactly when the 16 bits at offset 12 are the marker (30 R83). -/
def taggedBytes (bytes : List Byte) : Prop := be16At bytes 12 = 0x8100

/-- A frame is too short for its header (60 R186): under 15 bytes, or tagged and under 18. -/
def tooShortBytes (bytes : List Byte) : Prop := bytes.length < 15 ∨ (taggedBytes bytes ∧ bytes.length < 18)

/-- The cursor is FrameDecoder's. -/
def State.frameCursor (s : State) : Bool :=
  match s.cursor with
  | some c => c.owner == .frame
  | none => false

/-- The cursor is ArpDecoder's. -/
def State.arpCursor (s : State) : Bool :=
  match s.cursor with
  | some c => c.owner == .arp
  | none => false

/-- Every register that 10 R41 calls valid after a success of FrameDecoder has a value, and `vlan_tag` exactly in a tagged
frame. -/
def Header.complete (h : Header) : Bool :=
  h.macDest.isSome && h.macSrc.isSome && h.etherType.isSome && h.hdrLen.isSome && h.payloadOff.isSome && h.payloadLen.isSome
    && h.wLenMismatch.isSome && (h.vlanPresent == some h.vlanTag.isSome)

/-- Every register that 10 R41 calls valid after a success of ArpDecoder has a value. -/
def ArpRecord.complete (a : ArpRecord) : Bool :=
  a.hardwareType.isSome && a.protocolType.isSome && a.hardwareLen.isSome && a.protocolLen.isSome && a.operation.isSome
    && a.senderHwAddr.isSome && a.senderProtoAddr.isSome && a.targetHwAddr.isSome && a.targetProtoAddr.isSome
    && a.arpConsumed.isSome && a.trailOff.isSome && a.trailLen.isSome
    && a.wArpUnderlen.isSome && a.wArpTrailing.isSome && a.wArpTrunc.isSome

/-- The state invariant: the buffer is in canonical form; the two status registers say which registers are valid (10 R41), in
both directions; a running decoder has not yet reported; a failed frame leaves no record (60 R197 (d)). -/
structure State.Inv (s : State) : Prop where
  rawWf          : s.raw.wf = true
  frameRunning   : s.frameCursor = true → s.frameStatus = .none ∧ s.arpStatus = .notRun
  arpRunning     : s.arpCursor = true → s.arpStatus = .notRun ∧ s.frameStatus ≠ .tooShort
  headerValid    : s.frameStatus = .ok → s.hdr.complete = true
  headerInvalid  : s.frameStatus ≠ .ok → s.frameCursor = false → s.hdr = Header.invalid
  recordValid    : s.arpStatus = .ok → s.arp.complete = true
  recordInvalid  : s.arpStatus ≠ .ok → s.cursor = none → s.arp = ArpRecord.invalid
  failureAlone   : s.frameStatus = .tooShort → s.arpStatus = .notRun ∧ s.cursor = none

/-- Where FrameDecoder's cursor stands when `n` of its steps have run (10 R44, R46): 0, 6, 12, then 14, or 16 and 18 in a tagged
frame. -/
def frameOffset (tagged : Bool) (n : Nat) : Nat :=
  if n ≤ 1 then 0 else if n = 2 then 6 else if n ≤ 5 then 12 else if n = 6 then (if tagged then 16 else 12)
  else if tagged then 18 else 14

/-- Where ArpDecoder's cursor stands when `n` of its steps have run (10 R46), with `h` and `p` the declared lengths. -/
def arpOffset (h p n : Nat) : Nat :=
  if n ≤ 2 then 0 else if n = 3 then 2 else if n = 4 then 4 else if n = 5 then 5 else if n = 6 then 6
  else 8 + (if n = 7 then 0 else if n = 8 then h else if n = 9 then h + p else if n = 10 then 2 * h + p else 2 * h + 2 * p)

/-- The header registers when `n` of FrameDecoder's steps have run: those of the steps done have a value, those of the steps to
come have none (10 R42). -/
structure Header.WrittenBy (h : Header) (n : Nat) : Prop where
  macDest      : h.macDest.isSome = decide (2 ≤ n)
  macSrc       : h.macSrc.isSome = decide (3 ≤ n)
  vlanPresent  : h.vlanPresent.isSome = decide (4 ≤ n)
  vlanTag      : h.vlanTag.isSome = (decide (6 ≤ n) && (h.vlanPresent == some true))
  etherType    : h.etherType.isSome = decide (7 ≤ n)
  payload      : h.hdrLen.isSome = decide (8 ≤ n) ∧ h.payloadOff.isSome = decide (8 ≤ n) ∧ h.payloadLen.isSome = decide (8 ≤ n)
  wLenMismatch : h.wLenMismatch.isSome = true

/-- The record registers when `n` of ArpDecoder's steps have run (10 R42). -/
structure ArpRecord.WrittenBy (a : ArpRecord) (n : Nat) : Prop where
  hardwareType    : a.hardwareType.isSome = decide (3 ≤ n)
  protocolType    : a.protocolType.isSome = decide (4 ≤ n)
  hardwareLen     : a.hardwareLen.isSome = decide (5 ≤ n)
  protocolLen     : a.protocolLen.isSome = decide (6 ≤ n)
  operation       : a.operation.isSome = decide (7 ≤ n)
  senderHwAddr    : a.senderHwAddr.isSome = decide (8 ≤ n)
  senderProtoAddr : a.senderProtoAddr.isSome = decide (9 ≤ n)
  targetHwAddr    : a.targetHwAddr.isSome = decide (10 ≤ n)
  targetProtoAddr : a.targetProtoAddr.isSome = decide (11 ≤ n) ∧ a.arpConsumed.isSome = decide (11 ≤ n)
  trailing        : a.trailOff.isSome = decide (13 ≤ n) ∧ a.trailLen.isSome = decide (13 ≤ n)
  flags           : a.wArpUnderlen.isSome = true ∧ a.wArpTrailing.isSome = true ∧ a.wArpTrunc.isSome = true

/-- A running decoder is in order (10 R42, R44 to R46; 70 R218, R220): its cursor stands where the steps done have brought it, the
registers of exactly those steps have a value, and the length checks it has passed hold of the frame. -/
structure State.InOrder (s : State) : Prop where
  frameOff      : ∀ c n, s.cursor = some ⟨.frame, c, n⟩ → n ≤ 9 ∧ c = frameOffset (s.hdr.vlanPresent == some true) n
  frameWritten  : ∀ c n, s.cursor = some ⟨.frame, c, n⟩ → s.hdr.WrittenBy n
  frameChecked  : ∀ c n, s.FrameAt n c →
    (1 ≤ n → 15 ≤ s.raw.len) ∧ (5 ≤ n → s.hdr.vlanPresent = some true → 18 ≤ s.raw.len)
  arpOff        : ∀ c n, s.cursor = some ⟨.arp, c, n⟩ →
    n ≤ 13 ∧ c = arpOffset ((s.arp.hardwareLen.getD 0#8).toNat) ((s.arp.protocolLen.getD 0#8).toNat) n ∧
      (11 ≤ n → s.arp.arpConsumed = some c)
  arpWritten    : ∀ c n, s.cursor = some ⟨.arp, c, n⟩ → s.arp.WrittenBy n
  arpChecked    : ∀ c n, s.ArpAt n c → 2 ≤ n → 8 ≤ s.arpLen
  payloadInside : s.bufferHeld = true → ∀ o n, s.hdr.payloadOff = some o → s.hdr.payloadLen = some n → o + n = s.raw.len

/-- Every header register that has a value says what the frame says (41 R112 to R118): the addresses, the marker test, the tag,
the EtherType and the payload view. -/
structure HeaderMatches (raw : Frame) (h : Header) : Prop where
  macDest     : ∀ m, h.macDest = some m → m.toList = raw.bytes.take 6
  macSrc      : ∀ m, h.macSrc = some m → m.toList = (raw.bytes.drop 6).take 6
  vlanPresent : ∀ b, h.vlanPresent = some b → (b = true ↔ taggedBytes raw.bytes)
  vlanTag     : ∀ v, h.vlanTag = some v → taggedBytes raw.bytes ∧ v.toNat = be32At raw.bytes 12
  etherType   : ∀ v, h.etherType = some v →
    (taggedBytes raw.bytes → v.toNat = be16At raw.bytes 16) ∧ (¬ taggedBytes raw.bytes → v.toNat = be16At raw.bytes 12)
  hdrLen      : ∀ n, h.hdrLen = some n → (taggedBytes raw.bytes → n = 18) ∧ (¬ taggedBytes raw.bytes → n = 14)
  payload     : ∀ o, h.payloadOff = some o → h.hdrLen = some o ∧ ∃ n, h.payloadLen = some n ∧ o + n = raw.len

/-- While the buffer is unchanged, the header registers of a running or successful FrameDecoder say what the frame says. -/
def State.HeaderFaithful (s : State) : Prop :=
  s.bufferHeld = true → (s.frameCursor = true ∨ s.frameStatus = .ok) → HeaderMatches s.raw s.hdr

/-- The ArpRecord that a payload of at least 8 bytes gives (42 R133 to R143): the fixed fields, the four clamped slices at the
cumulative offsets, the consumed length, the trailing view and the three flags. -/
structure RecordMatches (payload : List Byte) (a : ArpRecord) : Prop where
  hardwareType    : ∃ v, a.hardwareType = some v ∧ v.toNat = be16At payload 0
  protocolType    : ∃ v, a.protocolType = some v ∧ v.toNat = be16At payload 2
  hardwareLen     : a.hardwareLen = some (payload.getD 4 0#8)
  protocolLen     : a.protocolLen = some (payload.getD 5 0#8)
  operation       : ∃ v, a.operation = some v ∧ v.toNat = be16At payload 6
  addresses       : ∀ h p, h = (payload.getD 4 0#8).toNat → p = (payload.getD 5 0#8).toNat →
    a.senderHwAddr = some ((payload.drop 8).take h) ∧
    a.senderProtoAddr = some ((payload.drop (8 + h)).take p) ∧
    a.targetHwAddr = some ((payload.drop (8 + h + p)).take h) ∧
    a.targetProtoAddr = some ((payload.drop (8 + 2 * h + p)).take p) ∧
    a.arpConsumed = some (8 + 2 * h + 2 * p) ∧
    a.trailOff = some (8 + 2 * h + 2 * p) ∧
    a.trailLen = some (payload.length - (8 + 2 * h + 2 * p)) ∧
    a.wArpTrunc = some (decide (payload.length < 8 + 2 * h + 2 * p)) ∧
    a.wArpTrailing = some (decide (∃ b ∈ payload.drop (8 + 2 * h + 2 * p), b ≠ 0#8))
  wArpUnderlen    : a.wArpUnderlen = some (decide (payload.length < 28))

/-- The bits of a window are `v` (30 R88): 16 bits of the frame when FrameDecoder reaches the peek at offset 12, the resolved EtherType
when FrameDecoder reaches FD.LENWARN or has returned, or a valid ArpRecord register. -/
def State.WindowHolds (s : State) (w : Window) (v : Half) : Prop :=
  match w with
  | .eth12 => (∃ c, s.FrameAt 3 c) ∧ 14 ≤ s.raw.len ∧ v.toNat = be16At s.raw.bytes 12
  | .etype => ((∃ c, s.FrameAt 8 c) ∨ (s.cursor = none ∧ s.frameStatus = .ok)) ∧ s.hdr.etherType = some v
  | .arpHtype => s.arpStatus = .ok ∧ s.arp.hardwareType = some v
  | .arpPtype => s.arpStatus = .ok ∧ s.arp.protocolType = some v
  | .arpOper => s.arpStatus = .ok ∧ s.arp.operation = some v

/-- `n` steps of the machine, stopping at the first fault or refusal (the run of Host/Core.lean). -/
def stepsFor : Nat → State → Out
  | 0, s => .next s
  | n + 1, s => andThen (step s) (stepsFor n)

/-- FrameDecoder carried out step by step (41 R110). -/
def frameStepwise : List Op :=
  [.start .frame, .run .fdLenchk, .run .fdMacdst, .run .fdMacsrc, .run .fdVlanpeek, .run .fdVlanchk, .run .fdVlantag,
   .run .fdEtype, .run .fdPayload, .run .fdLenwarn, .ret .frame]

/-- The whole transaction step by step: FrameDecoder, then the demultiplexing by the EtherType's code point (40 R100, 30 R84). -/
def demuxStepwise : List Op := frameStepwise ++ [.select .etype]

/-- ArpDecoder carried out step by step from one of its entries (42 R130). -/
def arpStepwise (e : Entry) : List Op :=
  [.start e, .run .adLenchk, .run .adHdrchk, .run .adHtype, .run .adPtype, .run .adHlen, .run .adPlen, .run .adOper,
   .run .adSha, .run .adSpa, .run .adTha, .run .adTpa, .run .adTrunc, .run .adTrail, .ret .arp]

/-- FrameDecoder by the code point of the ETH12 window (30 R83) in place of the five steps it stands for. -/
def frameByCodePoint : List Op :=
  [.start .frame, .run .fdLenchk, .run .fdMacdst, .run .fdMacsrc, .select .eth12, .run .fdLenwarn, .ret .frame]

/-- The whole transaction by code points: FrameDecoder up to offset 12, then what the ETH12 and the ETYPE window select. -/
def demuxByCodePoints : List Op :=
  [.start .frame, .run .fdLenchk, .run .fdMacdst, .run .fdMacsrc, .select .eth12, .select .etype]

/-- Which registers the caller may read after a completed operation: the validity table of 10 R41, in terms of the two status
registers and `vlan_present` alone; `diag` and the two views, which the table does not list, as log 20 says. -/
def validTable (fs : FrameStatus) (as : ArpStatus) (tagged : Bool) : Reg → Bool
  | .frameStatus | .arpStatus => true
  | .macDest | .macSrc | .vlanPresent | .etherType | .hdrLen | .payloadOff | .payloadLen | .payload | .wLenMismatch =>
    fs == .ok
  | .diag => fs == .ok || as == .ok
  | .vlanTag => fs == .ok && tagged
  | .hardwareType | .protocolType | .hardwareLen | .protocolLen | .operation | .senderHwAddr | .senderProtoAddr
  | .targetHwAddr | .targetProtoAddr | .arpConsumed | .trailOff | .trailLen | .trailing | .wArpUnderlen | .wArpTrailing
  | .wArpTrunc => as == .ok

/-- The decoder whose record an operand register belongs to. -/
def seqOwner : SeqReg → Decoder
  | .macDest | .macSrc => .frame
  | .senderHwAddr | .senderProtoAddr | .targetHwAddr | .targetProtoAddr => .arp

/-- An operand register by its name among the registers. -/
def seqRegister : SeqReg → Reg
  | .macDest => .macDest
  | .macSrc => .macSrc
  | .senderHwAddr => .senderHwAddr
  | .senderProtoAddr => .senderProtoAddr
  | .targetHwAddr => .targetHwAddr
  | .targetProtoAddr => .targetProtoAddr

/-- Two states agree in every result of a transaction (10 R21). -/
def SameResult (s t : State) : Prop :=
  s.frameStatus = t.frameStatus ∧ s.arpStatus = t.arpStatus ∧ s.hdr = t.hdr ∧ s.arp = t.arp ∧ s.cursor = t.cursor ∧
    s.bufferHeld = t.bufferHeld ∧ s.answer = t.answer

end Sys2Proof.Machine
end

