-- ==== Sys2Proof/Certificates/Slice0/Obligations.lean ====
section
/-! DEFINITION. The statements for the provers. Each docstring names what of the spec it formalises. -/

open Sys2Proof Sys2Proof.Machine

/-! ## Encoding -/

/-- Words written out from 30 R83 to R87 decode to the rows they stand for. -/
def Obligations.TableWordsDecodeToTheirRows : Prop :=
  decode Config.defaultNames .eth12 [0x81, 0x00] = .ok .cpEth12Vlan ∧
  decode Config.defaultNames .eth12 [0x00, 0x81] = .ok (.cpEth12Plain 0x0081) ∧
  decode Config.defaultNames .etype [0x08, 0x06] = .ok .cpEtypeArp ∧
  decode Config.defaultNames .etype [0x05, 0xdc] = .ok (.cpEtypeLength 1500) ∧
  decode Config.defaultNames .etype [0x05, 0xdd] = .ok (.cpEtypeOther 1501) ∧
  decode Config.defaultNames .arpHtype [0x00, 0x01] = .ok .cpHtypeEthernet ∧
  decode Config.defaultNames .arpHtype [0x01, 0x00] = .ok (.cpHtypeOther 256) ∧
  decode Config.defaultNames .arpPtype [0x08, 0x00] = .ok .cpPtypeIpv4 ∧
  decode Config.defaultNames .arpPtype [0x08, 0x06] = .ok .cpPtypeArp ∧
  decode Config.defaultNames .arpPtype [0x86, 0xdd] = .ok (.cpPtypeOther 0x86dd) ∧
  decode Config.defaultNames .arpOper [0x00, 0x01] = .ok .cpOperRequest ∧
  decode Config.defaultNames .arpOper [0x00, 0x02] = .ok .cpOperReply ∧
  decode Config.defaultNames .arpOper [0x01, 0x00] = .ok (.cpOperOther 256)

/-- Every well-formed code point has an encoding, of two bytes, and decoding it gives the code point back, with its operand at every
value the row admits and under every admissible `ETYPE_NAMES` (30 R83 to R88). -/
def Obligations.CodePointsDecodeWhatTheyEncode : Prop :=
  ∀ (names : List (Half × Symbol)) (i : Instr),
    Config.namesOk names = true → i.isCodePoint = true → i.wf names = true →
      ∃ w hi lo, encode i = some (w, [hi, lo]) ∧ decode names w [hi, lo] = .ok i

/-- 30 R88: the code points of a window are mutually exclusive after their predicates, and every 16 bits select one (in the
ARP.PTYPE window: unless they are a key that an implementer added to the table). No bits select a row of `kind` step. -/
def Obligations.EveryWindowValueSelectsExactlyOneCodePoint : Prop :=
  ∀ (names : List (Half × Symbol)) (w : Window) (hi lo : Byte),
    Config.namesOk names = true →
    (w = .arpPtype → be16 hi lo ≠ 0x0800 → be16 hi lo ≠ 0x0806 → be16 hi lo ∉ names.map Prod.fst) →
      ∃ i, decode names w [hi, lo] = .ok i ∧ i.isCodePoint = true ∧ i.wf names = true ∧
        encode i = some (w, [hi, lo]) ∧ ∀ j, j.wf names = true → encode j = some (w, [hi, lo]) → j = i

/-- FRAME_DECODE on the bytes of formats `F-ETH` and `F-ETHQ` (30 R76, R77) gives back every field at every value: both addresses, the
tag, the EtherType, the header length and the payload; `W_LEN_MISMATCH` by 41 R119. -/
def Obligations.FrameDecodeRecoversEveryEncodedField : Prop :=
  ∀ (s : State) (f : FrameFields),
    f.wf = true → s.raw = Frame.ofBytes (encodeFrame f) → s.tooLong = false →
      ∃ t, exec .frameDecode s = .next t ∧ t.frameStatus = .ok ∧ regValue t .payload = some (.bytes f.payload) ∧
        t.hdr = { macDest := some f.macDest, macSrc := some f.macSrc, vlanPresent := some f.tag.isSome,
                  vlanTag := f.tag.map fun tci => BitVec.ofNat 32 (0x8100 * 65536 + tci.toNat),
                  etherType := some f.etherType,
                  hdrLen := some (if f.tag.isSome then 18 else 14), payloadOff := some (if f.tag.isSome then 18 else 14),
                  payloadLen := some f.payload.length,
                  wLenMismatch := some (decide (f.etherType.toNat ≤ 1500 ∧ f.payload.length < f.etherType.toNat)) }

/-- ARP_DECODE alone on the bytes of format `F-ARP` (30 R78, R79) gives back every field at every length, complete (`W_ARP_TRUNC` 0), with
the trailing bytes judged by 42 R143. -/
def Obligations.ArpDecodeRecoversEveryEncodedField : Prop :=
  ∀ (s : State) (a : ArpFields),
    a.wf = true → s.raw = Frame.ofBytes (encodeArp a) →
      ∃ t h p, exec (.arpDecode .whole) s = .next t ∧ t.arpStatus = .ok ∧
        h = a.senderHwAddr.length ∧ p = a.senderProtoAddr.length ∧
        t.arp = { hardwareType := some a.hardwareType, protocolType := some a.protocolType,
                  hardwareLen := some (BitVec.ofNat 8 h), protocolLen := some (BitVec.ofNat 8 p),
                  operation := some a.operation,
                  senderHwAddr := some a.senderHwAddr, senderProtoAddr := some a.senderProtoAddr,
                  targetHwAddr := some a.targetHwAddr, targetProtoAddr := some a.targetProtoAddr,
                  arpConsumed := some (8 + 2 * h + 2 * p), trailOff := some (8 + 2 * h + 2 * p),
                  trailLen := some a.trailing.length,
                  wArpUnderlen := some (decide (8 + 2 * h + 2 * p + a.trailing.length < 28)),
                  wArpTrailing := some (decide (∃ b ∈ a.trailing, b ≠ 0#8)), wArpTrunc := some false }

/-- DEMUX on a frame, tagged or not, that carries an ARP packet gives back the whole header, with the tag, and the whole packet
(40 R100 on the bytes of 30 R76 to R79). -/
def Obligations.DemuxRecoversAnArpPacketInsideAFrame : Prop :=
  ∀ (s : State) (f : FrameFields) (a : ArpFields),
    f.wf = true → a.wf = true → f.etherType = 0x0806 → f.payload = encodeArp a →
    s.raw = Frame.ofBytes (encodeFrame f) → s.tooLong = false →
      ∃ t h p, exec .demux s = .next t ∧ t.frameStatus = .ok ∧ t.arpStatus = .ok ∧
        h = a.senderHwAddr.length ∧ p = a.senderProtoAddr.length ∧
        t.hdr = { macDest := some f.macDest, macSrc := some f.macSrc, vlanPresent := some f.tag.isSome,
                  vlanTag := f.tag.map fun tci => BitVec.ofNat 32 (0x8100 * 65536 + tci.toNat),
                  etherType := some 0x0806,
                  hdrLen := some (if f.tag.isSome then 18 else 14), payloadOff := some (if f.tag.isSome then 18 else 14),
                  payloadLen := some f.payload.length, wLenMismatch := some false } ∧
        t.arp = { hardwareType := some a.hardwareType, protocolType := some a.protocolType,
                  hardwareLen := some (BitVec.ofNat 8 h), protocolLen := some (BitVec.ofNat 8 p),
                  operation := some a.operation,
                  senderHwAddr := some a.senderHwAddr, senderProtoAddr := some a.senderProtoAddr,
                  targetHwAddr := some a.targetHwAddr, targetProtoAddr := some a.targetProtoAddr,
                  arpConsumed := some (8 + 2 * h + 2 * p), trailOff := some (8 + 2 * h + 2 * p),
                  trailLen := some a.trailing.length,
                  wArpUnderlen := some (decide (8 + 2 * h + 2 * p + a.trailing.length < 28)),
                  wArpTrailing := some (decide (∃ b ∈ a.trailing, b ≠ 0#8)), wArpTrunc := some false }

/-! ## Steps -/

/-- A step runs the instruction it is asked for, or the one that decoding its window's bits gives, on the state without that request;
the step adds nothing around it (log 5). -/
def Obligations.StepRunsTheRequestedOrDecodedInstruction : Prop :=
  (∀ (s : State) (i : Instr) (rest : List Op),
    s.pending = .run i :: rest → i.isCodePoint = false → i.wf s.cfg.etypeNames = true →
      step s = exec i { s with pending := rest }) ∧
  (∀ (s : State) (w : Window) (rest : List Op) (v : Half) (i : Instr),
    s.pending = .select w :: rest → s.WindowHolds w v → decode s.cfg.etypeNames w (halfBytes v) = .ok i →
      step s = exec i { s with pending := rest })

/-- What a step is without an instruction: with nothing asked for the block holds its last result (60 R205); the caller's frame fills
the buffer and leaves every register (20 R62; the model's `bufferHeld`, log 18); reset gives the reset state and leaves the
name table and the buffer (70 R210, R212). -/
def Obligations.IdlePresentAndResetSteps : Prop :=
  (∀ s : State, s.pending = [] → step s = .next s) ∧
  (∀ (s : State) (bytes : List Byte) (rest : List Op), s.pending = .present bytes :: rest →
    ∃ t, step s = .next t ∧ t.raw.bytes = bytes ∧ t = { s with raw := t.raw, bufferHeld := false, pending := rest }) ∧
  (∀ (s : State) (rest : List Op), s.pending = .reset :: rest →
    step s = .next { State.reset with cfg := s.cfg, raw := s.raw, pending := rest })

/-- Running FrameDecoder's steps one by one, in the order of 41 R110, ends exactly as the atomic FRAME_DECODE does: success, hard failure or
refusal, in every register and in what remains to be done (10 R22, 93 U16; log 7, log 8). -/
def Obligations.FrameDecodeEqualsItsStepsOneByOne : Prop :=
  ∀ (s : State) (rest : List Op),
    ∃ n, stepsFor n { s with pending := frameStepwise ++ rest } = exec .frameDecode { s with pending := rest }

/-- FrameDecoder carried out through the code point of the ETH12 window (30 R83) ends exactly as the atomic FRAME_DECODE does. -/
def Obligations.FrameDecodeEqualsItsCodePointForm : Prop :=
  ∀ (s : State) (rest : List Op),
    ∃ n, stepsFor n { s with pending := frameByCodePoint ++ rest } = exec .frameDecode { s with pending := rest }

/-- Running ArpDecoder's steps one by one, in the order of 42 R130, ends exactly as the atomic ARP_DECODE does, on the payload of a frame
and alone (40 R107). -/
def Obligations.ArpDecodeEqualsItsStepsOneByOne : Prop :=
  ∀ (s : State) (rest : List Op),
    (∃ n, stepsFor n { s with pending := arpStepwise .arpPayload ++ rest } =
      exec (.arpDecode .payload) { s with pending := rest }) ∧
    (∃ n, stepsFor n { s with pending := arpStepwise .arpWhole ++ rest } =
      exec (.arpDecode .whole) { s with pending := rest })

/-- The steps of FrameDecoder followed by the code point that the EtherType selects (30 R84) end exactly as the atomic DEMUX does
(40 R100); and so does the transaction carried out by the code points of the ETH12 and the ETYPE window (log 12). -/
def Obligations.DemuxEqualsItsStepsAndItsEtherTypeCodePoint : Prop :=
  ∀ (s : State) (rest : List Op),
    (∃ n, stepsFor n { s with pending := demuxStepwise ++ rest } = exec .demux { s with pending := rest }) ∧
    (∃ n, stepsFor n { s with pending := demuxByCodePoints ++ rest } = exec .demux { s with pending := rest })

/-! ## Reset and invariants -/

/-- 70 R210, 10 R49: after reset `frame_status` is NONE, `arp_status` is NOT_RUN, every other register is invalid (a read faults), the cursor has
no value, and `ETYPE_NAMES` holds exactly 0x0800 IPv4 and 0x0806 ARP. -/
def Obligations.ResetLeavesOnlyTheStatusRegistersReadable : Prop :=
  State.reset.frameStatus = .none ∧ State.reset.arpStatus = .notRun ∧ State.reset.cursor = none ∧
  (∀ r, r ≠ .frameStatus → r ≠ .arpStatus → readRegister r State.reset = .fault (.invalidRegister r)) ∧
  ∀ v, symbolOf State.reset.cfg.etypeNames v =
    if v = 0x0800 then some .ipv4 else if v = 0x0806 then some .arp else none

/-- The three invariants hold after reset. -/
def Obligations.ResetMeetsTheInvariants : Prop :=
  State.reset.Inv ∧ State.reset.InOrder ∧ State.reset.HeaderFaithful

/-- Every step keeps the invariant: canonical buffer (the model's representation, log 1), status registers that say exactly which
registers are valid (10 R41), a failure that leaves no record (60 R188, R197); and, visible in a step-by-step run only, a
running decoder that has not yet reported (log 7; that `frame_status` is NONE then is log 11, DEDUCED). `InOrder` rules out a
running decoder whose registers are not those of the steps it has done. -/
def Obligations.StepKeepsTheValidityInvariant : Prop :=
  ∀ s t : State, s.Inv → s.InOrder → step s = .next t → t.Inv

/-- Every step keeps every run in order (10 R42, R44 to R46; 70 R218, R220): the cursor stands where the steps done have brought it,
exactly the registers of those steps have a value, and the frame has passed their length checks. The step-by-step run is the
model's (log 7). -/
def Obligations.StepKeepsEveryRunInOrder : Prop :=
  ∀ s t : State, s.InOrder → step s = .next t → t.InOrder

/-- 20 R57: reads past the end of the buffer never happen. In a state whose run is in order no step, whatever it runs, asks a
fixed-width read for a byte that the frame does not have. -/
def Obligations.ReadsPastTheEndNeverHappen : Prop :=
  ∀ s : State, s.InOrder → ∀ addr count, step s ≠ .fault (.outOfFrame addr count)

/-- Every step keeps this: while the buffer is unchanged, whatever header register has a value says what the frame says (41 R112 to R118,
R122). -/
def Obligations.StepKeepsTheHeaderFaithfulToTheFrame : Prop :=
  ∀ s t : State, s.Inv → s.HeaderFaithful → step s = .next t → t.HeaderFaithful

/-- 10 R41, 70 R216: between transactions a read answers exactly for the valid registers and faults for every other; it changes no
register. `diag` and the two views are not in the table of 10 R41: that they are read as the flags and numbers they are made
of is log 20 (DESIGN CHOICE). After the caller has changed the buffer the registers, which are copies, still answer and the
two views into it are refused (20 R62, log 18). -/
def Obligations.ReadsFollowTheValidityTable : Prop :=
  ∀ (s : State) (r : Reg), s.Inv → s.cursor = none →
    if validTable s.frameStatus s.arpStatus (s.hdr.vlanPresent == some true) r = true then
      ∃ v, regValue s r = some v ∧
        (r.isView = false ∨ s.bufferHeld = true → readRegister r s = .next { s with answer := some v }) ∧
        (r.isView = true → s.bufferHeld = false → readRegister r s = .refused .bufferChanged)
    else readRegister r s = .fault (.invalidRegister r)

/-! ## Whole transactions -/

/-- 40 R100, R102, R104, R106 and the status table of 95 2.1: DEMUX always completes; the frame's bytes alone decide the two
status registers, and every register has the value the frame gives it or is invalid. -/
def Obligations.DemuxCompletesWithTheStatusPairOfTheFrame : Prop :=
  ∀ s : State, s.tooLong = false →
    ∃ t, exec .demux s = .next t ∧ t.raw = s.raw ∧ t.cfg = s.cfg ∧ t.cursor = none ∧ t.answer = none ∧
      (tooShortBytes s.raw.bytes →
        t.frameStatus = .tooShort ∧ t.arpStatus = .notRun ∧ t.hdr = Header.invalid ∧ t.arp = ArpRecord.invalid) ∧
      (¬ tooShortBytes s.raw.bytes → ∃ et n, t.frameStatus = .ok ∧ t.hdr.complete = true ∧ HeaderMatches s.raw t.hdr ∧
        t.hdr.etherType = some et ∧ t.hdr.payloadLen = some n ∧
        t.hdr.wLenMismatch = some (decide (et.toNat ≤ 1500 ∧ n < et.toNat)) ∧
        (et ≠ 0x0806 → t.arpStatus = .notRun ∧ t.arp = ArpRecord.invalid) ∧
        (et = 0x0806 → n < 8 → t.arpStatus = .tooShort ∧ t.arp = ArpRecord.invalid) ∧
        (et = 0x0806 → 8 ≤ n → t.arpStatus = .ok ∧ RecordMatches (s.raw.bytes.drop (s.raw.len - n)) t.arp))

/-- 41 R110: FRAME_DECODE completes on every frame; it fails exactly on a frame too short for its header (60 R186), and else gives a complete
header that says what the frame says, with the flag of 41 R119; it leaves the frame, the parameters and, on success, what
remains to be done. -/
def Obligations.FrameDecodeCompletesWithTheHeaderOfTheFrame : Prop :=
  ∀ s : State, s.tooLong = false →
    ∃ t, exec .frameDecode s = .next t ∧ t.raw = s.raw ∧ t.cfg = s.cfg ∧ t.arpStatus = .notRun ∧
      t.arp = ArpRecord.invalid ∧ t.cursor = none ∧ t.answer = none ∧
      (tooShortBytes s.raw.bytes → t.frameStatus = .tooShort ∧ t.hdr = Header.invalid) ∧
      (¬ tooShortBytes s.raw.bytes → t.frameStatus = .ok ∧ t.hdr.complete = true ∧ HeaderMatches s.raw t.hdr ∧
        t.pending = s.pending ∧
        ∀ et n, t.hdr.etherType = some et → t.hdr.payloadLen = some n →
          t.hdr.wLenMismatch = some (decide (et.toNat ≤ 1500 ∧ n < et.toNat)))

/-- 42 R130, 40 R107: ARP_DECODE alone completes on every byte sequence; it fails exactly below 8 bytes (42 R132, 92 D4) and else gives the
record of the bytes. No frame is decoded: the header is invalid and `frame_status` NONE (log 9). -/
def Obligations.ArpDecodeAloneCompletesWithTheRecordOfTheBuffer : Prop :=
  ∀ s : State, ∃ t, exec (.arpDecode .whole) s = .next t ∧ t.raw = s.raw ∧ t.cfg = s.cfg ∧ t.hdr = Header.invalid ∧
    t.frameStatus = .none ∧ t.cursor = none ∧ t.answer = none ∧
    (s.raw.len < 8 → t.arpStatus = .tooShort ∧ t.arp = ArpRecord.invalid) ∧
    (8 ≤ s.raw.len → t.arpStatus = .ok ∧ t.pending = s.pending ∧ RecordMatches s.raw.bytes t.arp)

/-- 42 R130: ARP_DECODE on the payload of a decoded frame completes, gives the record of the payload or fails below 8 bytes, and leaves the
header and `frame_status` as they are (40 R106). It does not look at the EtherType (92 D21). -/
def Obligations.ArpDecodeOfAPayloadCompletesAndKeepsTheHeader : Prop :=
  ∀ (s : State) (o n : Nat),
    s.frameStatus = .ok → s.bufferHeld = true → s.hdr.payloadOff = some o → s.hdr.payloadLen = some n → o + n = s.raw.len →
      ∃ t, exec (.arpDecode .payload) s = .next t ∧ t.raw = s.raw ∧ t.cfg = s.cfg ∧ t.hdr = s.hdr ∧ t.frameStatus = .ok ∧
        t.cursor = none ∧ t.answer = none ∧
        (n < 8 → t.arpStatus = .tooShort ∧ t.arp = ArpRecord.invalid) ∧
        (8 ≤ n → t.arpStatus = .ok ∧ t.pending = s.pending ∧ RecordMatches (s.raw.bytes.drop o) t.arp)

/-- 40 R105, 10 R48: the result of DEMUX depends on the frame only (and the bound of 00 R9). Two states that agree in those, whatever they
held before and whatever their name tables, answer the same: both refuse, or both go on with the same result registers. -/
def Obligations.DemuxDependsOnTheFrameOnly : Prop :=
  ∀ s t : State, s.raw = t.raw → s.cfg.maxFrameBytes = t.cfg.maxFrameBytes →
    (∀ s', exec .demux s = .next s' → ∃ t', exec .demux t = .next t' ∧ SameResult s' t') ∧
    (∀ r, exec .demux s = .refused r → exec .demux t = .refused r)

/-- 41 R121, 40 R102: FRAME_DECODE reads bytes 0 to 13, and 14 to 17 only in a tagged frame; no payload byte of a frame that is not ARP
influences DEMUX. -/
def Obligations.PayloadBytesOfAFrameThatIsNotArpAreNotRead : Prop :=
  ∀ s t : State, s.cfg.maxFrameBytes = t.cfg.maxFrameBytes → s.raw.len = t.raw.len →
    (∀ a, a < 14 → s.raw.byte a = t.raw.byte a) →
    (taggedBytes s.raw.bytes → ∀ a, a < 18 → s.raw.byte a = t.raw.byte a) →
    ∀ s', exec .demux s = .next s' → s'.hdr.etherType ≠ some 0x0806 →
      ∃ t', exec .demux t = .next t' ∧ SameResult s' t'

/-- 00 R9: a frame longer than `MAX_FRAME_BYTES` starts no transaction. -/
def Obligations.FramesOverTheBoundAreRefused : Prop :=
  ∀ (s : State) (n : Nat), s.cfg.maxFrameBytes = some n → n < s.raw.len →
    exec .demux s = .refused .frameTooLong ∧ exec .frameDecode s = .refused .frameTooLong

/-- 20 R60, 10 R23, R48: no instruction writes a byte of the frame or changes its length or a parameter; and no step changes the buffer
but the one in which the caller presents a frame (20 R62). -/
def Obligations.OnlyTheCallerWritesTheFrame : Prop :=
  (∀ (i : Instr) (s t : State), exec i s = .next t →
    (∀ a, t.raw.byte a = s.raw.byte a) ∧ t.raw.len = s.raw.len ∧ t.cfg = s.cfg) ∧
  (∀ s t : State, step s = .next t → (∀ bytes rest, s.pending ≠ .present bytes :: rest) →
    (∀ a, t.raw.byte a = s.raw.byte a) ∧ t.raw.len = s.raw.len ∧ t.cfg = s.cfg)

/-! ## FrameDecoder's steps -/

/-- 41 R111 and R115 (92 D3, the spec's own decision): FD.LENCHK fails exactly below 15 bytes, FD.VLANCHK exactly in a tagged frame below
18; else each only goes on to the next step. -/
def Obligations.FdLengthChecksFailExactlyOnFramesTooShort : Prop :=
  ∀ (s : State) (c : Nat),
    (s.FrameAt 0 c →
      (s.raw.bytes.length < 15 → exec .fdLenchk s =
        .next { s with frameStatus := .tooShort, arpStatus := .notRun, hdr := Header.invalid, arp := ArpRecord.invalid,
                       cursor := none, pending := s.pending.dropWhile (Op.partOf .frame) }) ∧
      (15 ≤ s.raw.bytes.length → exec .fdLenchk s = .next { s with cursor := some ⟨.frame, c, 1⟩ })) ∧
    (∀ tagged : Bool, s.FrameAt 4 c → s.hdr.vlanPresent = some tagged →
      (tagged = true ∧ s.raw.bytes.length < 18 → exec .fdVlanchk s =
        .next { s with frameStatus := .tooShort, arpStatus := .notRun, hdr := Header.invalid, arp := ArpRecord.invalid,
                       cursor := none, pending := s.pending.dropWhile (Op.partOf .frame) }) ∧
      (tagged = false ∨ 18 ≤ s.raw.bytes.length → exec .fdVlanchk s = .next { s with cursor := some ⟨.frame, c, 5⟩ }))

/-- 41 R112, R113: FD.MACDST and FD.MACSRC store frame bytes 0 to 5 and 6 to 11 unchanged, in wire order, move the cursor to 6 and 12, and
change nothing else. -/
def Obligations.FdMacStepsStoreTheAddressBytes : Prop :=
  ∀ (s : State) (c : Nat),
    (s.FrameAt 1 c → 6 ≤ s.raw.len → ∃ m, m.toList = s.raw.bytes.take 6 ∧
      exec .fdMacdst s = .next { s with hdr := { s.hdr with macDest := some m }, cursor := some ⟨.frame, 6, 2⟩ }) ∧
    (s.FrameAt 2 c → 12 ≤ s.raw.len → ∃ m, m.toList = (s.raw.bytes.drop 6).take 6 ∧
      exec .fdMacsrc s = .next { s with hdr := { s.hdr with macSrc := some m }, cursor := some ⟨.frame, 12, 3⟩ })

/-- 41 R114: FD.VLANPEEK sets `vlan_present` exactly when the 16 bits at offset 12 are 0x8100; the cursor's offset stays. -/
def Obligations.FdVlanpeekTestsTheMarkerExactly : Prop :=
  ∀ (s : State) (c : Nat), s.FrameAt 3 c → 14 ≤ s.raw.len →
    ∃ b, (b = true ↔ taggedBytes s.raw.bytes) ∧ exec .fdVlanpeek s =
      .next { s with hdr := { s.hdr with vlanPresent := some b }, cursor := some ⟨.frame, c, 4⟩ }

/-- 41 R116: FD.VLANTAG stores the four bytes from offset 12 as one big-endian value in a tagged frame, the cursor to 16; in an untagged
frame it changes nothing. -/
def Obligations.FdVlantagStoresTheTagOfATaggedFrame : Prop :=
  ∀ (s : State) (c : Nat), s.FrameAt 5 c →
    (s.hdr.vlanPresent = some true → 16 ≤ s.raw.len → ∃ v, v.toNat = be32At s.raw.bytes 12 ∧
      exec .fdVlantag s = .next { s with hdr := { s.hdr with vlanTag := some v }, cursor := some ⟨.frame, 16, 6⟩ }) ∧
    (s.hdr.vlanPresent = some false → exec .fdVlantag s = .next { s with cursor := some ⟨.frame, c, 6⟩ })

/-- 41 R117: FD.ETYPE stores the 16 bits at offset 16 of a tagged frame, at 12 of an untagged one; the cursor to 18 or 14. -/
def Obligations.FdEtypeReadsAtTheFormatsOffset : Prop :=
  ∀ (s : State) (c : Nat), s.FrameAt 6 c →
    (s.hdr.vlanPresent = some true → 18 ≤ s.raw.len → ∃ v, v.toNat = be16At s.raw.bytes 16 ∧
      exec .fdEtype s = .next { s with hdr := { s.hdr with etherType := some v }, cursor := some ⟨.frame, 18, 7⟩ }) ∧
    (s.hdr.vlanPresent = some false → 14 ≤ s.raw.len → ∃ v, v.toNat = be16At s.raw.bytes 12 ∧
      exec .fdEtype s = .next { s with hdr := { s.hdr with etherType := some v }, cursor := some ⟨.frame, 14, 7⟩ })

/-- 41 R118: FD.PAYLOAD sets the header length 18 or 14, the payload's offset equal to it, and the payload's length so that the payload
is the rest of the frame. -/
def Obligations.FdPayloadDelimitsTheRestOfTheFrame : Prop :=
  ∀ (s : State) (c : Nat) (tagged : Bool) (hdrLen : Nat), s.FrameAt 7 c → s.hdr.vlanPresent = some tagged →
    hdrLen = (if tagged then 18 else 14) → hdrLen ≤ s.raw.len →
      ∃ n, hdrLen + n = s.raw.bytes.length ∧ exec .fdPayload s =
        .next { s with hdr := { s.hdr with hdrLen := some hdrLen, payloadOff := some hdrLen, payloadLen := some n },
                       cursor := some ⟨.frame, c, 8⟩ }

/-- 41 R119, 60 R189: FD.LENWARN sets the flag exactly when `ether_type <= 1500` and `payload_len < ether_type`, and changes nothing else. -/
def Obligations.FdLenwarnFlagsAShorterPayloadOnly : Prop :=
  ∀ (s : State) (c : Nat) (et : Half) (n : Nat), s.FrameAt 8 c → s.hdr.etherType = some et → s.hdr.payloadLen = some n →
    ∃ b, (b = true ↔ et.toNat ≤ 1500 ∧ n < et.toNat) ∧ exec .fdLenwarn s =
      .next { s with hdr := { s.hdr with wLenMismatch := some b }, cursor := some ⟨.frame, c, 9⟩ }

/-! ## ArpDecoder's steps -/

/-- 42 R131, R132 (92 D4): AD.LENCHK sets the flag exactly below 28 bytes and never fails; AD.HDRCHK fails exactly below 8 bytes, leaving the
header as it is, and else only goes on to the next step. -/
def Obligations.AdLengthChecksFlagBelow28AndFailBelow8 : Prop :=
  ∀ (s : State) (c : Nat), s.ArpInputInFrame →
    (s.ArpAt 0 c → ∃ b, (b = true ↔ s.arpInput.length < 28) ∧ exec .adLenchk s =
      .next { s with arp := { s.arp with wArpUnderlen := some b }, cursor := some ⟨.arp, c, 1⟩ }) ∧
    (s.ArpAt 1 c →
      (s.arpInput.length < 8 → exec .adHdrchk s =
        .next { s with arpStatus := .tooShort, arp := ArpRecord.invalid, cursor := none,
                       pending := s.pending.dropWhile (Op.partOf .arp) }) ∧
      (8 ≤ s.arpInput.length → exec .adHdrchk s = .next { s with cursor := some ⟨.arp, c, 2⟩ }))

/-- 42 R133 to R137: the three 16-bit fields hold the big-endian value of payload bytes 0 and 1, 2 and 3, 6 and 7; the two length bytes
are payload bytes 4 and 5; the cursor goes to 2, 4, 5, 6 and 8. Nothing else changes. -/
def Obligations.AdFixedHeaderStepsReadTheirBytes : Prop :=
  ∀ (s : State) (c : Nat), s.ArpInputInFrame → 8 ≤ s.arpInput.length →
    (s.ArpAt 2 c → ∃ v, v.toNat = be16At s.arpInput 0 ∧
      exec .adHtype s = .next { s with arp := { s.arp with hardwareType := some v }, cursor := some ⟨.arp, 2, 3⟩ }) ∧
    (s.ArpAt 3 c → ∃ v, v.toNat = be16At s.arpInput 2 ∧
      exec .adPtype s = .next { s with arp := { s.arp with protocolType := some v }, cursor := some ⟨.arp, 4, 4⟩ }) ∧
    (s.ArpAt 4 c → exec .adHlen s = .next { s with arp := { s.arp with hardwareLen := some (s.arpInput.getD 4 0#8) },
                                                   cursor := some ⟨.arp, 5, 5⟩ }) ∧
    (s.ArpAt 5 c → exec .adPlen s = .next { s with arp := { s.arp with protocolLen := some (s.arpInput.getD 5 0#8) },
                                                   cursor := some ⟨.arp, 6, 6⟩ }) ∧
    (s.ArpAt 6 c → ∃ v, v.toNat = be16At s.arpInput 6 ∧
      exec .adOper s = .next { s with arp := { s.arp with operation := some v }, cursor := some ⟨.arp, 8, 7⟩ })

/-- 42 R138 to R141 (92 D5, the spec's own decision): each address field is the slice of the payload at the cursor with the declared
length, clamped to the end of the payload; the cursor advances by the DECLARED length, and after AD.TPA it is the consumed length. -/
def Obligations.AdAddressStepsSliceAtTheCursor : Prop :=
  ∀ (s : State) (off : Nat) (h p : Byte), s.ArpInputInFrame → s.arpView.1 + s.arpView.2 = s.raw.len →
    s.arp.hardwareLen = some h → s.arp.protocolLen = some p →
      (s.ArpAt 7 off → exec .adSha s =
        .next { s with arp := { s.arp with senderHwAddr := some ((s.arpInput.drop off).take h.toNat) },
                       cursor := some ⟨.arp, off + h.toNat, 8⟩ }) ∧
      (s.ArpAt 8 off → exec .adSpa s =
        .next { s with arp := { s.arp with senderProtoAddr := some ((s.arpInput.drop off).take p.toNat) },
                       cursor := some ⟨.arp, off + p.toNat, 9⟩ }) ∧
      (s.ArpAt 9 off → exec .adTha s =
        .next { s with arp := { s.arp with targetHwAddr := some ((s.arpInput.drop off).take h.toNat) },
                       cursor := some ⟨.arp, off + h.toNat, 10⟩ }) ∧
      (s.ArpAt 10 off → exec .adTpa s =
        .next { s with arp := { s.arp with targetProtoAddr := some ((s.arpInput.drop off).take p.toNat),
                                           arpConsumed := some (off + p.toNat) },
                       cursor := some ⟨.arp, off + p.toNat, 11⟩ })

/-- 42 R142 (92 D5), R143: AD.TRUNC sets its flag exactly when the payload is shorter than the consumed length; AD.TRAIL sets the trailing
view and one flag, exactly when some trailing byte is not zero. The cursor's offset stays. -/
def Obligations.AdTruncAndTrailJudgeTheEndOfThePayload : Prop :=
  ∀ (s : State) (c consumed : Nat), s.arpView.1 + s.arpView.2 = s.raw.len → s.arp.arpConsumed = some consumed →
    (s.ArpAt 11 c → ∃ b, (b = true ↔ s.arpInput.length < consumed) ∧ exec .adTrunc s =
      .next { s with arp := { s.arp with wArpTrunc := some b }, cursor := some ⟨.arp, c, 12⟩ }) ∧
    (s.ArpAt 12 c → ∃ b, (b = true ↔ ∃ i, consumed ≤ i ∧ i < s.arpInput.length ∧ s.arpInput.getD i 0#8 ≠ 0#8) ∧
      exec .adTrail s = .next { s with arp := { s.arp with trailOff := some consumed,
                                                           trailLen := some (s.arpInput.length - consumed),
                                                           wArpTrailing := some b },
                                       cursor := some ⟨.arp, c, 13⟩ })

/-! ## Code points -/

/-- 30 R83 (log 12): the marker selects the 18-byte header with the EtherType at offset 16 (or the failure of 41 R115); any other 16 bits
are the EtherType of the 14-byte header. `Inv` rules out a running FrameDecoder that has already failed. -/
def Obligations.Eth12CodePointsSelectTheHeaderFormat : Prop :=
  ∀ (s : State) (c : Nat), s.Inv → s.FrameAt 3 c →
    (18 ≤ s.raw.len → ∃ tag et, tag.toNat = be32At s.raw.bytes 12 ∧ et.toNat = be16At s.raw.bytes 16 ∧
      exec .cpEth12Vlan s =
        .next { s with hdr := { s.hdr with vlanPresent := some true, vlanTag := some tag, etherType := some et,
                                           hdrLen := some 18, payloadOff := some 18,
                                           payloadLen := some (s.raw.bytes.length - 18) },
                       cursor := some ⟨.frame, 18, 8⟩ }) ∧
    (s.raw.len < 18 → ∃ t, exec .cpEth12Vlan s = .next t ∧ t.frameStatus = .tooShort ∧ t.hdr = Header.invalid) ∧
    (∀ et : Half, et ≠ 0x8100 → 14 ≤ s.raw.len → exec (.cpEth12Plain et) s =
        .next { s with hdr := { s.hdr with vlanPresent := some false, etherType := some et, hdrLen := some 14,
                                           payloadOff := some 14, payloadLen := some (s.raw.bytes.length - 14) },
                       cursor := some ⟨.frame, 14, 8⟩ })

/-- 30 R84 (log 12), when FrameDecoder reaches FD.LENWARN and after its return. 0x0806 makes ArpDecoder run on the payload, after the return
exactly as ARP_DECODE on it does; a length of at most 1500 is what FD.LENWARN compares with the payload's length; it and any
other value, which sets no flag, leave the payload opaque. After the return no header register is written (10 R42). That the last
two then drop the record of an ARP_DECODE that has run on the payload is the model's choice (log 24, DESIGN CHOICE). -/
def Obligations.EtypeCodePointsDecideWhatThePayloadIs : Prop :=
  (∀ (s : State) (c o n : Nat), s.FrameAt 8 c → s.hdr.payloadOff = some o → s.hdr.payloadLen = some n → o + n = s.raw.len →
    (∃ t, exec .cpEtypeArp s = .next t ∧ t.hdr = { s.hdr with wLenMismatch := some false } ∧ t.frameStatus = .ok ∧
      (8 ≤ n → t.arpStatus = .ok ∧ RecordMatches (s.raw.bytes.drop o) t.arp) ∧
      (n < 8 → t.arpStatus = .tooShort ∧ t.arp = ArpRecord.invalid)) ∧
    (∀ len : Half, len.toNat ≤ 1500 → ∃ b, (b = true ↔ n < len.toNat) ∧ exec (.cpEtypeLength len) s =
      .next { s with hdr := { s.hdr with wLenMismatch := some b }, frameStatus := .ok, arpStatus := .notRun,
                     arp := ArpRecord.invalid, cursor := none }) ∧
    (∀ et : Half, 1500 < et.toNat → et ≠ 0x0806 → exec (.cpEtypeOther et) s =
      .next { s with hdr := { s.hdr with wLenMismatch := some false }, frameStatus := .ok, arpStatus := .notRun,
                     arp := ArpRecord.invalid, cursor := none })) ∧
  (∀ (s : State) (et : Half), s.cursor = none → s.frameStatus = .ok → s.bufferHeld = true → s.hdr.etherType = some et →
    exec .cpEtypeArp s = exec (.arpDecode .payload) s ∧
    (∀ len : Half, len.toNat ≤ 1500 →
      exec (.cpEtypeLength len) s = .next { s with arpStatus := .notRun, arp := ArpRecord.invalid }) ∧
    (∀ v : Half, 1500 < v.toNat → v ≠ 0x0806 →
      exec (.cpEtypeOther v) s = .next { s with arpStatus := .notRun, arp := ArpRecord.invalid }))

/-- 30 R85, R86, R87: what the code points of the three ARP windows decide, for every state and every admissible table. They write no
register. That `exec` of such a code point answers the decision, and the form of that answer, is the model's reading (log 12,
DEDUCED). A key added to the table has no row (log 15). The class of any packet is among those that its operation's code
point leaves reachable (30 R87, 44 R180). -/
def Obligations.ArpCodePointsDecideNamesAndClasses : Prop :=
  (∀ s : State, Config.namesOk s.cfg.etypeNames = true →
    exec .cpHtypeEthernet s = .next { s with answer := some (.naming (.named .ethernet) .hexJoined) } ∧
    (∀ v : Half, v ≠ 1 → exec (.cpHtypeOther v) s = .next { s with answer := some (.naming (.raw v) .rawBytes) }) ∧
    exec .cpPtypeIpv4 s = .next { s with answer := some (.naming (.named .ipv4) .dottedIfFour) } ∧
    exec .cpPtypeArp s = .next { s with answer := some (.naming (.named .arp) .rawBytes) } ∧
    (∀ v : Half, v ∉ s.cfg.etypeNames.map Prod.fst →
      exec (.cpPtypeOther v) s = .next { s with answer := some (.naming (.raw v) .rawBytes) }) ∧
    exec .cpOperRequest s =
      .next { s with answer := some (.opcode .request [.announcement, .gratuitous, .probe, .request]) } ∧
    exec .cpOperReply s = .next { s with answer := some (.opcode .reply [.announcement, .gratuitous, .reply]) } ∧
    (∀ v : Half, v ≠ 1 → v ≠ 2 →
      exec (.cpOperOther v) s = .next { s with answer := some (.opcode .neither [.announcement, .gratuitous, .invalid]) })) ∧
  (∀ (operation : Half) (sha spa tha tpa : List Byte),
    classify operation sha spa tha tpa ∈ (operKind operation).reachable)

/-- 30 R85, R86: the view AV.HWNAME answers the name that the ARP.HTYPE window's code point decides, and AV.PTNAME the one that the
ARP.PTYPE window's code point decides, for every decoded record whose protocol type selects a code point. That `exec` of such
a code point answers a name is the model's reading (log 12, DEDUCED). A key added to the table selects none (log 15); what
AV.PTNAME answers for it is `ProtocolTypeNameFollowsTheTable`. -/
def Obligations.TypeNameViewsAgreeWithTheirCodePoints : Prop :=
  ∀ (s : State) (ht pt : Half) (i j : Instr),
    Config.namesOk s.cfg.etypeNames = true → s.arpStatus = .ok →
    s.arp.hardwareType = some ht → s.arp.protocolType = some pt →
    decode s.cfg.etypeNames .arpHtype (halfBytes ht) = .ok i → decode s.cfg.etypeNames .arpPtype (halfBytes pt) = .ok j →
      ∃ hn hr pn pr,
        exec .avHwname s = .next { s with answer := some (.typeName hn ht) } ∧
        exec i s = .next { s with answer := some (.naming hn hr) } ∧
        exec .avPtname s = .next { s with answer := some (.typeName pn pt) } ∧
        exec j s = .next { s with answer := some (.naming pn pr) }

/-! ## Views -/

/-- 40 R101: DEMUX.SEL answers whether the resolved EtherType is 0x0806 and writes no register; and an ArpRecord is produced only when it is. -/
def Obligations.DemuxSelSelectsArpOnly : Prop :=
  (∀ (s : State) (et : Half), s.frameStatus = .ok → s.hdr.etherType = some et →
    exec .demuxSel s = .next { s with answer := some (.bit (decide (et = 0x0806))) }) ∧
  (∀ s t : State, exec .demux s = .next t → t.arpStatus ≠ .notRun → t.hdr.etherType = some 0x0806)

/-- 43 R156: the hardware type's name is `Ethernet` exactly for the value 1, else the number; the answer carries the
field itself (10 R39). Nothing else changes. -/
def Obligations.HardwareTypeNameNamesOnlyEthernet : Prop :=
  ∀ (s : State) (ht : Half), s.arpStatus = .ok → s.arp.hardwareType = some ht →
    (ht = 1 → exec .avHwname s = .next { s with answer := some (.typeName (.named .ethernet) ht) }) ∧
    (ht ≠ 1 → exec .avHwname s = .next { s with answer := some (.typeName (.raw ht) ht) })

/-- 43 R157, 10 R47 (92 D15): under every admissible table 0x0800 is named `IPv4` and 0x0806 `ARP`, a value that is no key passes through as
the number, a key has its entry's symbol, and no other value is named `IPv4`; the answer carries the field itself
(10 R39). Nothing else changes. -/
def Obligations.ProtocolTypeNameFollowsTheTable : Prop :=
  ∀ (s : State) (pt : Half), Config.namesOk s.cfg.etypeNames = true → s.arpStatus = .ok → s.arp.protocolType = some pt →
    ∃ name, exec .avPtname s = .next { s with answer := some (.typeName name pt) } ∧
      (pt = 0x0800 → name = .named .ipv4) ∧ (pt = 0x0806 → name = .named .arp) ∧
      (∀ sym, (pt, sym) ∈ s.cfg.etypeNames → name = .named sym) ∧
      (pt ∉ s.cfg.etypeNames.map Prod.fst → name = .raw pt) ∧ (name = .named .ipv4 → pt = 0x0800)

/-- 43 R162, R163 (92 D8): a hardware address is rendered as joined hexadecimal exactly when `hardware_type` is 1, whatever its length, else
as its bytes. -/
def Obligations.HardwareAddressViewsRenderEthernetAsHex : Prop :=
  ∀ (s : State) (ht : Half) (sha tha : List Byte), s.arpStatus = .ok → s.arp.hardwareType = some ht →
    s.arp.senderHwAddr = some sha → s.arp.targetHwAddr = some tha →
      exec .avShaStr s =
        .next { s with answer := some (.rendered (if ht = 1 then .text (hexJoin sha) else .bytes sha)) } ∧
      exec .avThaStr s =
        .next { s with answer := some (.rendered (if ht = 1 then .text (hexJoin tha) else .bytes tha)) }

/-- 43 R160, R161 (92 D8): a protocol address is rendered as dotted decimal exactly when `protocol_type` is 0x0800 and it has four bytes,
else as its bytes, under every admissible table. -/
def Obligations.ProtocolAddressViewsRenderIpv4AsDotted : Prop :=
  ∀ (s : State) (pt : Half) (spa tpa : List Byte), Config.namesOk s.cfg.etypeNames = true → s.arpStatus = .ok →
    s.arp.protocolType = some pt → s.arp.senderProtoAddr = some spa → s.arp.targetProtoAddr = some tpa →
      (∃ v, exec .avSpaStr s = .next { s with answer := some (.rendered v) } ∧
        (pt = 0x0800 → ∀ a b c d, spa = [a, b, c, d] → v = .text (dec a ++ ['.'] ++ dec b ++ ['.'] ++ dec c ++ ['.'] ++ dec d)) ∧
        (pt ≠ 0x0800 ∨ spa.length ≠ 4 → v = .bytes spa)) ∧
      (∃ v, exec .avTpaStr s = .next { s with answer := some (.rendered v) } ∧
        (pt = 0x0800 → ∀ a b c d, tpa = [a, b, c, d] → v = .text (dec a ++ ['.'] ++ dec b ++ ['.'] ++ dec c ++ ['.'] ++ dec d)) ∧
        (pt ≠ 0x0800 ∨ tpa.length ≠ 4 → v = .bytes tpa))

/-- 44 R170 to R176, R179: AV.OPCLASS answers, for every decoded record, the one class whose condition is the first of the six to hold.
Equality of addresses is the spec's decision 92 D7 (R177) and the zero constants 92 D6 (R178). Truncated records are
included: their class is the spec's own construction (R183, 92 D5, D7). -/
def Obligations.OpclassIsTheFirstConditionThatHolds : Prop :=
  ∀ (s : State) (op : Half) (sha spa tha tpa : List Byte), s.arpStatus = .ok → s.arp.operation = some op →
    s.arp.senderHwAddr = some sha → s.arp.senderProtoAddr = some spa → s.arp.targetHwAddr = some tha →
    s.arp.targetProtoAddr = some tpa →
      ∃ cls, exec .avOpclass s = .next { s with answer := some (.opClass cls) } ∧
        ∀ c1 c2 c3 : Prop, (c1 ↔ spa = tpa ∧ sha = tha) → (c2 ↔ tpa = spa ∧ tha = List.replicate 6 0#8) →
          (c3 ↔ op = 1 ∧ tpa = List.replicate 4 0#8) →
          (cls = .announcement ↔ c1) ∧ (cls = .gratuitous ↔ ¬ c1 ∧ c2) ∧ (cls = .probe ↔ ¬ c1 ∧ ¬ c2 ∧ c3) ∧
          (cls = .request ↔ ¬ c1 ∧ ¬ c2 ∧ ¬ c3 ∧ op = 1) ∧ (cls = .reply ↔ ¬ c1 ∧ ¬ c2 ∧ op = 2) ∧
          (cls = .invalid ↔ ¬ c1 ∧ ¬ c2 ∧ op ≠ 1 ∧ op ≠ 2)

/-- 41 R120, 43 R158: MAC_FMT of six bytes, given by the caller or held in an address register, answers 17 characters, and HEXJOIN of any
byte sequence answers `3n - 1` (none for the empty one); at six bytes the two agree. Every byte stands as its two lower-case
digits at place `3i`, a colon between. No register changes. MAC_FMT and DOTTED of a length for which they are not defined stop (log 17). -/
def Obligations.HexFormatsWriteTwoDigitsAByte : Prop :=
  (∀ (s : State) (bytes : List Byte), ∃ text,
    exec (.hexjoin (.lit bytes)) s = .next { s with answer := some (.text text) } ∧
    text.length = 3 * bytes.length - 1 ∧
    (∀ i, i < bytes.length → text[3 * i]? = ("0123456789abcdef".toList)[(bytes.getD i 0#8).toNat / 16]? ∧
      text[3 * i + 1]? = ("0123456789abcdef".toList)[(bytes.getD i 0#8).toNat % 16]?) ∧
    (∀ i, i + 1 < bytes.length → text[3 * i + 2]? = some ':') ∧
    (bytes.length = 6 → exec (.macFmt (.lit bytes)) s = .next { s with answer := some (.text text) })) ∧
  (∀ (s : State) (m : Mac), s.frameStatus = .ok →
    (s.hdr.macDest = some m → exec (.macFmt (.reg .macDest)) s = exec (.macFmt (.lit m.toList)) s ∧
      exec (.hexjoin (.reg .macDest)) s = exec (.hexjoin (.lit m.toList)) s) ∧
    (s.hdr.macSrc = some m → exec (.macFmt (.reg .macSrc)) s = exec (.macFmt (.lit m.toList)) s ∧
      exec (.hexjoin (.reg .macSrc)) s = exec (.hexjoin (.lit m.toList)) s)) ∧
  (∀ (s : State) (bytes : List Byte), bytes.length ≠ 6 →
    exec (.macFmt (.lit bytes)) s = .fault (.lengthRequirement 6 bytes.length)) ∧
  (∀ (s : State) (bytes : List Byte), bytes.length ≠ 4 →
    exec (.dotted (.lit bytes)) s = .fault (.lengthRequirement 4 bytes.length))

/-- The operand forms that name an address register of the ArpRecord: each formatting function gives what it gives on the register's
bytes, and on a register of another length than it is defined for it stops by name (43 R159 "requires len(s) = 4", 41 R120). -/
def Obligations.FormatsOfAddressRegistersUseTheirBytes : Prop :=
  ∀ (s : State) (r : SeqReg) (bytes : List Byte), s.arpStatus = .ok →
    (r = .senderHwAddr ∧ s.arp.senderHwAddr = some bytes ∨ r = .senderProtoAddr ∧ s.arp.senderProtoAddr = some bytes ∨
      r = .targetHwAddr ∧ s.arp.targetHwAddr = some bytes ∨ r = .targetProtoAddr ∧ s.arp.targetProtoAddr = some bytes) →
      exec (.hexjoin (.reg r)) s = exec (.hexjoin (.lit bytes)) s ∧
      (bytes.length = 4 → exec (.dotted (.reg r)) s = exec (.dotted (.lit bytes)) s) ∧
      (bytes.length ≠ 4 → exec (.dotted (.reg r)) s = .fault (.lengthRequirement 4 bytes.length)) ∧
      (bytes.length = 6 → exec (.macFmt (.reg r)) s = exec (.macFmt (.lit bytes)) s) ∧
      (bytes.length ≠ 6 → exec (.macFmt (.reg r)) s = .fault (.lengthRequirement 6 bytes.length))

/-- 43 R159, 30 R97: DOTTED of any four bytes answers four decimal numerals joined by dots, first byte first; a numeral's digits denote
the byte and it has no leading zero. The text has 7 to 15 characters. No register changes. -/
def Obligations.DottedWritesFourNumerals : Prop :=
  ∀ (s : State) (a b c d : Byte), ∃ na nb nc nd : List Char,
    exec (.dotted (.lit [a, b, c, d])) s =
      .next { s with answer := some (.text (na ++ ['.'] ++ nb ++ ['.'] ++ nc ++ ['.'] ++ nd)) } ∧
    (∀ x n, (x, n) ∈ [(a, na), (b, nb), (c, nc), (d, nd)] →
      n.foldl (fun acc ch => 10 * acc + (ch.toNat - 48)) 0 = x.toNat ∧ (∀ ch ∈ n, ch ∈ "0123456789".toList) ∧
        n ≠ [] ∧ (n.head? = some '0' → n = ['0'])) ∧
    7 ≤ (na ++ ['.'] ++ nb ++ ['.'] ++ nc ++ ['.'] ++ nd).length ∧
    (na ++ ['.'] ++ nb ++ ['.'] ++ nc ++ ['.'] ++ nd).length ≤ 15

/-- The renderings lose nothing: different byte sequences have different hexadecimal texts, and different IPv4 addresses different
dotted texts. -/
def Obligations.RenderingsAreInjective : Prop :=
  (∀ x y : List Byte, hexJoin x = hexJoin y → x = y) ∧
  (∀ (x y : List Byte) (t : List Char), dottedText x = some t → dottedText y = some t → x = y)

/-- 10 R40 (92 D17): the characters of every text that an instruction answers are `0` to `9`, `a` to `f`, `:` and `.`. -/
def Obligations.TextsAreDrawnFromTheAsciiAlphabet : Prop :=
  ∀ (i : Instr) (s t : State) (text : List Char), s.answer = none → exec i s = .next t →
    (t.answer = some (.text text) ∨ t.answer = some (.rendered (.text text))) →
      ∀ ch ∈ text, ch ∈ "0123456789abcdef:.".toList

/-- 43 R155, 70 R217 (the views), 40 R101, 41 R120, 43 R158, R159 (DEMUX.SEL and the helpers): each changes nothing but what it answers;
evaluated again, and after any other of them, it answers the same. That a code point of an ARP window writes no register
either is the model's reading (log 12, DEDUCED); that the answer stands in a field is log 6. -/
def Obligations.ViewsWriteNoRegisterAndRepeat : Prop :=
  ∀ (i j : Instr) (s t u : State),
    (∀ k ∈ [i, j], k ∈ [.demuxSel, .avHwname, .avPtname, .avSpaStr, .avTpaStr, .avShaStr, .avThaStr, .avOpclass,
      .cpHtypeEthernet, .cpPtypeIpv4, .cpPtypeArp, .cpOperRequest, .cpOperReply] ∨
      (∃ src, k = .macFmt src ∨ k = .hexjoin src ∨ k = .dotted src) ∨
      (∃ v, k = .cpHtypeOther v ∨ k = .cpPtypeOther v ∨ k = .cpOperOther v)) →
    exec i s = .next t → exec j t = .next u →
      t = { s with answer := t.answer } ∧ t.answer ≠ none ∧ exec i u = .next t

/-- 43 R155, 10 R41: a view of an ArpRecord that is not valid stops by name and answers no value, and so do each formatting function of
each register of a record that is not valid, the header's or the ArpRecord's, and DEMUX.SEL without a valid header. -/
def Obligations.ViewsStopWithoutTheirRecord : Prop :=
  (∀ s : State, s.arpStatus ≠ .ok →
    exec .avHwname s = .fault (.invalidRegister .hardwareType) ∧ exec .avShaStr s = .fault (.invalidRegister .hardwareType) ∧
    exec .avThaStr s = .fault (.invalidRegister .hardwareType) ∧
    exec .avPtname s = .fault (.invalidRegister .protocolType) ∧ exec .avSpaStr s = .fault (.invalidRegister .protocolType) ∧
    exec .avTpaStr s = .fault (.invalidRegister .protocolType) ∧ exec .avOpclass s = .fault (.invalidRegister .operation)) ∧
  (∀ (s : State) (r : SeqReg) (format : SeqOperand → Instr),
    format = .macFmt ∨ format = .hexjoin ∨ format = .dotted →
    (seqOwner r = .frame → s.frameStatus ≠ .ok) → (seqOwner r = .arp → s.arpStatus ≠ .ok) →
      exec (format (.reg r)) s = .fault (.invalidRegister (seqRegister r))) ∧
  (∀ s : State, s.frameStatus ≠ .ok → exec .demuxSel s = .fault (.invalidRegister .etherType))

/-! ## Failures and anomalies -/

/-- 60 R188: whichever instruction makes FrameDecoder fail, nothing of either decoder's record is left and no decoder runs; whichever makes
ArpDecoder fail, the ArpRecord is invalid. FrameDecoder's result is then as it was before the instruction; as DEMUX's own
FrameDecoder gave it; after CP.ETYPE.ARP in a run, FrameDecoder's with its last flag; and after ARP_DECODE alone, which is a
transaction without a frame, there is none (log 9, DESIGN CHOICE). A failure in a state that already shows one is what the
completion statements of DEMUX, FRAME_DECODE and ARP_DECODE say. -/
def Obligations.HardFailuresLeaveNoRecord : Prop :=
  ∀ (i : Instr) (s t : State), exec i s = .next t →
    (s.frameStatus ≠ .tooShort → t.frameStatus = .tooShort →
      t.hdr = Header.invalid ∧ t.arp = ArpRecord.invalid ∧ t.arpStatus = .notRun ∧ t.cursor = none) ∧
    (s.arpStatus ≠ .tooShort → t.arpStatus = .tooShort →
      t.arp = ArpRecord.invalid ∧ t.cursor = none ∧
      (i = .demux → t.frameStatus = .ok ∧ t.hdr.complete = true) ∧
      (i = .cpEtypeArp → t.frameStatus = .ok ∧ t.hdr = { s.hdr with wLenMismatch := t.hdr.wLenMismatch }) ∧
      (i = .arpDecode .whole → t.frameStatus = .none ∧ t.hdr = Header.invalid) ∧
      (i ≠ .demux → i ≠ .cpEtypeArp → i ≠ .arpDecode .whole → t.hdr = s.hdr ∧ t.frameStatus = s.frameStatus))

/-- 60 R197 (c): the combinations of anomalies that cannot occur in a transaction. `W_LEN_MISMATCH` only with `arp_status` NOT_RUN;
`W_ARP_TRUNC` never with `W_ARP_TRAILING`. -/
def Obligations.AnomalyCombinationsThatCannotOccur : Prop :=
  ∀ s t : State, exec .demux s = .next t →
    (t.hdr.wLenMismatch = some true → t.arpStatus = .notRun) ∧
    (t.arp.wArpTrunc = some true → t.arp.wArpTrailing = some false)

/-- 10 R32, R45 and 42 R142: after a success of ArpDecoder in DEMUX the consumed length is 8 to 1028 and is `8 + 2h + 2p`; no address field is
longer than its declared length or than 255; and without `W_ARP_TRUNC` each has exactly its declared length. -/
def Obligations.AddressFieldsStayWithinTheirDeclaredLengths : Prop :=
  ∀ s t : State, exec .demux s = .next t → t.arpStatus = .ok →
    ∃ h p sha spa tha tpa trunc, t.arp.hardwareLen = some h ∧ t.arp.protocolLen = some p ∧
      t.arp.senderHwAddr = some sha ∧ t.arp.senderProtoAddr = some spa ∧ t.arp.targetHwAddr = some tha ∧
      t.arp.targetProtoAddr = some tpa ∧ t.arp.wArpTrunc = some trunc ∧
      t.arp.arpConsumed = some (8 + 2 * h.toNat + 2 * p.toNat) ∧ 8 + 2 * h.toNat + 2 * p.toNat ≤ 1028 ∧
      sha.length ≤ h.toNat ∧ spa.length ≤ p.toNat ∧ tha.length ≤ h.toNat ∧ tpa.length ≤ p.toNat ∧
      h.toNat ≤ 255 ∧ p.toNat ≤ 255 ∧
      (trunc = false → sha.length = h.toNat ∧ spa.length = p.toNat ∧ tha.length = h.toNat ∧ tpa.length = p.toNat)

/-- 30 R88 "each runs whenever its decoder reaches it", 41 R110 "in exactly this order", 42 R130, 20 R62 (log 7, log 12, log 18). A
decoder's step, an ETH12 code point or a decoder's return stops while its decoder does not run, is refused on a buffer that
changed since the transaction started, and stops unless it is the one the decoder has reached. So do the ETYPE code points,
which run at FD.LENWARN or after the return; without either they stop for want of a valid EtherType (10 R41). ARP_DECODE on a
payload stops without a valid header (10 R41, log 10) and is refused when the buffer changed. -/
def Obligations.StepsOutsideTheirRunStop : Prop :=
  (∀ (s : State) (i : Instr) (d : Decoder) (n : Nat),
    i.place = some (d, n) ∨ (d = .frame ∧ n = 3 ∧ (i = .cpEth12Vlan ∨ ∃ v, i = .cpEth12Plain v)) →
    ((∀ c m, s.cursor ≠ some ⟨d, c, m⟩) → exec i s = .fault (.decoderNotRunning d)) ∧
    (∀ c m, s.cursor = some ⟨d, c, m⟩ →
      (s.bufferHeld = false → exec i s = .refused .bufferChanged) ∧
      (s.bufferHeld = true → m ≠ n → exec i s = .fault (.stepNotReached d)))) ∧
  (∀ (s : State) (d : Decoder) (rest : List Op), s.pending = .ret d :: rest →
    ((∀ c m, s.cursor ≠ some ⟨d, c, m⟩) → step s = .fault (.decoderNotRunning d)) ∧
    (∀ c m, s.cursor = some ⟨d, c, m⟩ →
      (s.bufferHeld = false → step s = .refused .bufferChanged) ∧
      (s.bufferHeld = true → m ≠ d.stepCount → step s = .fault (.stepNotReached d)))) ∧
  (∀ (s : State) (i : Instr), i = .cpEtypeArp ∨ (∃ v, i = .cpEtypeLength v ∨ i = .cpEtypeOther v) →
    (s.cursor = none → s.frameStatus ≠ .ok → exec i s = .fault (.invalidRegister .etherType)) ∧
    (s.cursor = none → s.frameStatus = .ok → s.hdr.etherType ≠ none → s.bufferHeld = false →
      exec i s = .refused .bufferChanged) ∧
    (∀ c m, s.cursor = some ⟨.arp, c, m⟩ → exec i s = .fault (.decoderNotRunning .frame)) ∧
    (∀ c m, s.cursor = some ⟨.frame, c, m⟩ →
      (s.bufferHeld = false → exec i s = .refused .bufferChanged) ∧
      (s.bufferHeld = true → m ≠ 8 → exec i s = .fault (.stepNotReached .frame)))) ∧
  (∀ s : State,
    (s.frameStatus ≠ .ok → exec (.arpDecode .payload) s = .fault (.invalidRegister .payloadOff)) ∧
    (s.Inv → s.frameStatus = .ok → s.bufferHeld = false → exec (.arpDecode .payload) s = .refused .bufferChanged))

/-- 10 R36 to R39 (92 D9, D10): the numeric codes, the bits of a type's name, and `diag`: all four bits with both records, bit 0 alone
with a header and no ArpRecord, bits 1 to 3 alone after ARP_DECODE alone (10 R41 bit by bit, log 20). -/
def Obligations.StatusAndDiagCodes : Prop :=
  (FrameStatus.code .none = 0 ∧ FrameStatus.code .ok = 1 ∧ FrameStatus.code .tooShort = 2) ∧
  (ArpStatus.code .notRun = 0 ∧ ArpStatus.code .ok = 1 ∧ ArpStatus.code .tooShort = 2) ∧
  ([OpClass.announcement, .gratuitous, .probe, .request, .reply, .invalid].map OpClass.code = [0, 1, 2, 3, 4, 5]) ∧
  ([Symbol.ethernet, .ipv4, .arp].map symbolCode = [1, 2, 3]) ∧
  (∀ (sym : Symbol) (v field : Half),
    (TypeName.named sym).bits field = { isNamed := true, sym := some (symbolCode sym), raw := field } ∧
    (TypeName.raw v).bits field = { isNamed := false, sym := none, raw := field }) ∧
  (∀ (s : State) (m u tl tc : Bool), s.frameStatus = .ok → s.arpStatus = .ok → s.hdr.wLenMismatch = some m →
    s.arp.wArpUnderlen = some u → s.arp.wArpTrailing = some tl → s.arp.wArpTrunc = some tc →
      ∃ (d : Diag) (v : BitVec 4), readRegister .diag s = .next { s with answer := some (.diag d) } ∧ d.vector = some v ∧
        v.getLsbD 0 = m ∧ v.getLsbD 1 = u ∧ v.getLsbD 2 = tl ∧ v.getLsbD 3 = tc) ∧
  (∀ (s : State) (m : Bool), s.frameStatus = .ok → s.arpStatus ≠ .ok → s.hdr.wLenMismatch = some m →
    readRegister .diag s =
      .next { s with answer := some (.diag { bit0 := some m, bit1 := none, bit2 := none, bit3 := none }) }) ∧
  (∀ (s : State) (u tl tc : Bool), s.frameStatus ≠ .ok → s.arpStatus = .ok →
    s.arp.wArpUnderlen = some u → s.arp.wArpTrailing = some tl → s.arp.wArpTrunc = some tc →
      readRegister .diag s =
        .next { s with answer := some (.diag { bit0 := none, bit1 := some u, bit2 := some tl, bit3 := some tc }) })
end

