-- ==== Sys2Proof/Laws/Memory.lean ====
section
/-! SUPPORT. Laws of the frame buffer: a read after a write, the canonical form kept by every operation, and frames are byte
sequences. -/

namespace Sys2Proof.Machine

theorem cellAt_below {low : Nat} {cells : List Host.Cell} (h : cellsWf low cells = true) {a : Nat} (ha : a < low) :
    cellAt cells a = 0#8 := by
  induction cells generalizing low with
  | nil => rfl
  | cons c rest ih =>
    obtain ⟨k, v⟩ := c
    simp only [cellsWf, Bool.and_eq_true, decide_eq_true_eq] at h
    have hne : k ≠ a := by omega
    simp [cellAt, hne, ih h.2 (by omega)]

theorem cellAt_setCell {low : Nat} {cells : List Host.Cell} (h : cellsWf low cells = true) (a x : Nat) (b : Byte) :
    cellAt (setCell cells a b) x = if x = a then b else cellAt cells x := by
  induction cells generalizing low with
  | nil =>
    by_cases hb : b = 0#8 <;> by_cases hx : a = x <;> simp [setCell, cellAt, hb, hx, eq_comm (a := x)]
  | cons c rest ih =>
    obtain ⟨k, v⟩ := c
    simp only [cellsWf, Bool.and_eq_true, decide_eq_true_eq] at h
    have hrest := ih h.2
    have hlow : ∀ y, y ≤ k → cellAt rest y = 0#8 := fun y hy => cellAt_below h.2 (by omega)
    simp only [setCell]
    split
    · simp only [cellAt, hrest]
      split_ifs <;> first | rfl | omega
    · split
      · rename_i hka
        subst hka
        split_ifs with hb hx hx
        · simp [hx, hlow k le_rfl, hb]
        · simp [cellAt, Ne.symm hx]
        · simp [cellAt, hx]
        · simp [cellAt, Ne.symm hx]
      · rename_i hlt hne
        split_ifs with hb hx hx
        · subst hx; simp [cellAt, hne, hlow x (by omega), hb]
        · rfl
        · simp [cellAt, hx]
        · simp [cellAt, Ne.symm hx]

theorem cellsWf_mono {low low' : Nat} {cells : List Host.Cell} (hl : low' ≤ low) (h : cellsWf low cells = true) :
    cellsWf low' cells = true := by
  cases cells with
  | nil => rfl
  | cons c rest =>
    obtain ⟨k, v⟩ := c
    simp only [cellsWf, Bool.and_eq_true, decide_eq_true_eq] at h ⊢
    exact ⟨⟨by omega, h.1.2⟩, h.2⟩

theorem cellsWf_setCell {low : Nat} {cells : List Host.Cell} (h : cellsWf low cells = true) {a : Nat} (ha : low ≤ a)
    (b : Byte) : cellsWf low (setCell cells a b) = true := by
  induction cells generalizing low with
  | nil => by_cases hb : b = 0#8 <;> simp [setCell, cellsWf, hb, ha]
  | cons c rest ih =>
    obtain ⟨k, v⟩ := c
    simp only [cellsWf, Bool.and_eq_true, decide_eq_true_eq] at h
    simp only [setCell]
    split
    · simp only [cellsWf, Bool.and_eq_true, decide_eq_true_eq]
      exact ⟨h.1, ih h.2 (by omega)⟩
    · split
      · rename_i hka
        split_ifs with hb
        · exact cellsWf_mono (by omega) h.2
        · subst hka; simp [cellsWf, ha, hb, h.2]
      · split_ifs with hb
        · simp only [cellsWf, Bool.and_eq_true, decide_eq_true_eq]
          exact h
        · simp only [cellsWf, Bool.and_eq_true, decide_eq_true_eq]
          exact ⟨⟨ha, by simpa using hb⟩, ⟨by omega, h.1.2⟩, h.2⟩

theorem mem_setCell {cells : List Host.Cell} {a : Nat} {b : Byte} {c : Host.Cell} (h : c ∈ setCell cells a b) :
    c ∈ cells ∨ c.1 = a := by
  induction cells with
  | nil =>
    simp only [setCell] at h
    split_ifs at h <;> simp_all
  | cons d rest ih =>
    obtain ⟨k, v⟩ := d
    simp only [setCell] at h
    split_ifs at h <;> simp only [List.mem_cons] at h ⊢
    · rcases h with rfl | h
      · exact .inl (.inl rfl)
      · exact (ih h).imp .inr id
    · exact .inl (.inr h)
    · rcases h with rfl | h
      · exact .inr rfl
      · exact .inl (.inr h)
    · exact .inl h
    · rcases h with rfl | h
      · exact .inr rfl
      · exact .inl h

theorem setCell_below {n : Nat} {cells : List Host.Cell} (h : (cells.all fun c => c.1 < n) = true) (a : Nat) (b : Byte) :
    ((setCell cells a b).all fun c => c.1 < max n (a + 1)) = true := by
  simp only [List.all_eq_true, decide_eq_true_eq] at h ⊢
  intro c hc
  rcases mem_setCell hc with hc | hc
  · exact lt_of_lt_of_le (h c hc) (le_max_left _ _)
  · omega

/-- Reading after the caller replaced one byte. -/
theorem Frame.byte_set {f : Frame} (h : f.wf = true) (a x : Nat) (b : Byte) :
    (f.set a b).byte x = if x = a then b else f.byte x := by
  simp only [Frame.wf, Bool.and_eq_true] at h
  exact cellAt_setCell h.1 a x b

/-- Replacing a byte keeps the canonical form. -/
theorem Frame.wf_set {f : Frame} (h : f.wf = true) (a : Nat) (b : Byte) : (f.set a b).wf = true := by
  simp only [Frame.wf, Bool.and_eq_true] at h ⊢
  exact ⟨cellsWf_setCell h.1 (Nat.zero_le a) b, setCell_below h.2 a b⟩

theorem cellAt_cellsFrom (base : Nat) (bytes : List Byte) (a : Nat) :
    cellAt (cellsFrom base bytes) (base + a) = bytes.getD a 0#8 := by
  have low : ∀ (l : List Byte) (n y : Nat), y < n → cellAt (cellsFrom n l) y = 0#8 := by
    intro l
    induction l with
    | nil => intros; rfl
    | cons b bs ih =>
      intro n y hy
      simp only [cellsFrom]
      split_ifs
      · exact ih _ _ (by omega)
      · have : n ≠ y := by omega
        simp [cellAt, this, ih _ _ (show y < n + 1 by omega)]
  induction bytes generalizing base a with
  | nil => simp [cellsFrom, cellAt]
  | cons b bs ih =>
    cases a with
    | zero =>
      simp only [cellsFrom]
      split_ifs with hb
      · simp [low bs (base + 1) base (by omega), hb]
      · simp [cellAt]
    | succ n =>
      have := ih (base + 1) n
      rw [show base + 1 + n = base + (n + 1) by omega] at this
      simp only [cellsFrom]
      split_ifs
      · simpa using this
      · simpa [cellAt] using this

/-- The frame that holds a byte sequence reads as that sequence. -/
theorem Frame.byte_ofBytes (bytes : List Byte) (a : Nat) : (Frame.ofBytes bytes).byte a = bytes.getD a 0#8 := by
  simpa [Frame.ofBytes, Frame.byte] using cellAt_cellsFrom 0 bytes a

@[simp] theorem Frame.len_ofBytes (bytes : List Byte) : (Frame.ofBytes bytes).len = bytes.length := rfl

theorem cellsWf_cellsFrom (base : Nat) (bytes : List Byte) : cellsWf base (cellsFrom base bytes) = true := by
  induction bytes generalizing base with
  | nil => rfl
  | cons b bs ih =>
    simp only [cellsFrom]
    split_ifs with hb
    · exact cellsWf_mono (Nat.le_succ base) (ih _)
    · simp [cellsWf, hb, ih]

theorem cellsFrom_below (base : Nat) (bytes : List Byte) :
    ((cellsFrom base bytes).all fun c => c.1 < base + bytes.length) = true := by
  induction bytes generalizing base with
  | nil => rfl
  | cons b bs ih =>
    have := ih (base + 1)
    simp only [List.all_eq_true, decide_eq_true_eq, List.length_cons] at this ⊢
    simp only [cellsFrom]
    split_ifs
    · intro x hx; have := this x hx; omega
    · intro x hx
      rcases List.mem_cons.mp hx with rfl | hx
      · simp
      · have := this x hx; omega

/-- A presented frame is in canonical form. -/
theorem Frame.wf_ofBytes (bytes : List Byte) : (Frame.ofBytes bytes).wf = true := by
  simp only [Frame.wf, Bool.and_eq_true]
  refine ⟨cellsWf_cellsFrom 0 bytes, ?_⟩
  have := cellsFrom_below 0 bytes
  rwa [Nat.zero_add] at this

@[simp] theorem Frame.bytesFrom_length (f : Frame) (a n : Nat) : (f.bytesFrom a n).length = n := by
  simp [Frame.bytesFrom]

@[simp] theorem Frame.slice_length (f : Frame) (a n : Nat) : (f.slice a n).length = min n (f.len - a) := by
  simp [Frame.slice]

/-- A slice of a presented frame is the clamped slice of its bytes. -/
theorem Frame.slice_ofBytes (bytes : List Byte) (a n : Nat) :
    (Frame.ofBytes bytes).slice a n = (bytes.drop a).take n := by
  apply List.ext_getElem
  · simp
  · intro i h1 h2
    simp only [Frame.slice_length, Frame.len_ofBytes] at h1
    have : a + i < bytes.length := by omega
    simp [Frame.slice, Frame.bytesFrom, Frame.byte_ofBytes, this]

/-- Frames in canonical form are byte sequences: the frame of a presented sequence has those bytes. -/
theorem Frame.bytes_ofBytes (bytes : List Byte) : (Frame.ofBytes bytes).bytes = bytes := by
  have := Frame.slice_ofBytes bytes 0 bytes.length
  simpa [Frame.slice, Frame.bytes] using this

theorem cells_ext {low : Nat} {c₁ c₂ : List Host.Cell} (h₁ : cellsWf low c₁ = true) (h₂ : cellsWf low c₂ = true)
    (h : ∀ a, cellAt c₁ a = cellAt c₂ a) : c₁ = c₂ := by
  induction c₁ generalizing low c₂ with
  | nil =>
    cases c₂ with
    | nil => rfl
    | cons d r =>
      obtain ⟨k, v⟩ := d
      simp only [cellsWf, Bool.and_eq_true, bne_iff_ne] at h₂
      exact absurd (by simpa [cellAt] using (h k).symm) h₂.1.2
  | cons c rest ih =>
    obtain ⟨k, v⟩ := c
    have hk : cellAt ((k, v) :: rest) k = v := by simp [cellAt]
    simp only [cellsWf, Bool.and_eq_true, decide_eq_true_eq, bne_iff_ne] at h₁
    cases c₂ with
    | nil => exact absurd (by rw [← hk, h k]; rfl) h₁.1.2
    | cons d r =>
      obtain ⟨k', v'⟩ := d
      have hk' : cellAt ((k', v') :: r) k' = v' := by simp [cellAt]
      simp only [cellsWf, Bool.and_eq_true, decide_eq_true_eq, bne_iff_ne] at h₂
      have hkk : k = k' := by
        rcases Nat.lt_trichotomy k k' with hlt | heq | hgt
        · have h0 : cellAt ((k', v') :: r) k = 0#8 := by
            have hne : k' ≠ k := by omega
            simp [cellAt, hne, cellAt_below h₂.2 (show k < k' + 1 by omega)]
          exact absurd (by rw [← hk, h k, h0]) h₁.1.2
        · exact heq
        · have h0 : cellAt ((k, v) :: rest) k' = 0#8 := by
            have hne : k ≠ k' := by omega
            simp [cellAt, hne, cellAt_below h₁.2 (show k' < k + 1 by omega)]
          exact absurd (by rw [← hk', ← h k', h0]) h₂.1.2
      subst hkk
      have hv : v = v' := by rw [← hk, h k, hk']
      subst hv
      have hrest : rest = r := ih h₁.2 h₂.2 (fun a => by
        rcases Nat.lt_or_ge k a with hlt | hge
        · have := h a
          have hne : k ≠ a := by omega
          simpa [cellAt, hne] using this
        · rw [cellAt_below h₁.2 (by omega), cellAt_below h₂.2 (by omega)])
      rw [hrest]

/-- Two frames in canonical form with the same length and the same bytes are equal data. -/
theorem Frame.ext_of_wf {f g : Frame} (hf : f.wf = true) (hg : g.wf = true) (hl : f.len = g.len)
    (h : ∀ a, f.byte a = g.byte a) : f = g := by
  simp only [Frame.wf, Bool.and_eq_true] at hf hg
  obtain ⟨cf, lf⟩ := f
  obtain ⟨cg, lg⟩ := g
  have : cf = cg := cells_ext hf.1 hg.1 h
  simp_all

theorem cellAt_above {n : Nat} {cells : List Host.Cell} (h : (cells.all fun c => c.1 < n) = true) {a : Nat} (ha : n ≤ a) :
    cellAt cells a = 0#8 := by
  induction cells with
  | nil => rfl
  | cons c rest ih =>
    obtain ⟨k, v⟩ := c
    simp only [List.all_cons, Bool.and_eq_true, decide_eq_true_eq] at h
    have hne : k ≠ a := by omega
    simp [cellAt, hne, ih h.2]

/-- Every frame in canonical form is the frame of its own bytes. -/
theorem Frame.ofBytes_bytes {f : Frame} (h : f.wf = true) : Frame.ofBytes f.bytes = f := by
  refine Frame.ext_of_wf (Frame.wf_ofBytes _) h (by simp [Frame.bytes]) fun a => ?_
  rw [Frame.byte_ofBytes]
  by_cases ha : a < f.len
  · simp [Frame.bytes, Frame.bytesFrom, ha]
  · simp only [Frame.wf, Bool.and_eq_true] at h
    have : f.byte a = 0#8 := cellAt_above h.2 (by omega)
    simp [Frame.bytes, Frame.bytesFrom, ha, this]

end Sys2Proof.Machine
end

