-- ==== Sys2Proof/Laws/Names.lean ====
section
/-! SUPPORT. Laws of `ETYPE_NAMES` as a finite map. -/

namespace Sys2Proof

theorem symbolOf_eq_none {names : List (Half × Symbol)} {v : Half} (h : v ∉ names.map Prod.fst) :
    symbolOf names v = none := by
  induction names with
  | nil => rfl
  | cons e rest ih =>
    obtain ⟨k, sym⟩ := e
    simp only [List.map_cons, List.mem_cons, not_or] at h
    simp [symbolOf, Ne.symm h.1, ih h.2]

theorem symbolOf_mem {names : List (Half × Symbol)} {v : Half} {sym : Symbol} (h : symbolOf names v = some sym) :
    (v, sym) ∈ names := by
  induction names with
  | nil => cases h
  | cons e rest ih =>
    obtain ⟨k, t⟩ := e
    simp only [symbolOf] at h
    split_ifs at h with hk
    · cases h; simp [hk]
    · exact List.mem_cons_of_mem _ (ih h)

theorem symbolOf_of_mem {names : List (Half × Symbol)} (hd : (names.map Prod.fst).Nodup) {v : Half} {sym : Symbol}
    (h : (v, sym) ∈ names) : symbolOf names v = some sym := by
  induction names with
  | nil => cases h
  | cons e rest ih =>
    obtain ⟨k, t⟩ := e
    simp only [List.map_cons, List.nodup_cons] at hd
    simp only [symbolOf]
    rcases List.mem_cons.mp h with heq | hmem
    · cases heq; simp
    · have hne : k ≠ v := by
        rintro rfl
        exact hd.1 (List.mem_map.mpr ⟨_, hmem, rfl⟩)
      simp [hne, ih hd.2 hmem]

/-- 10 R47: 0x0800 is named `IPv4` in every admissible table. -/
theorem symbolOf_ipv4 {names : List (Half × Symbol)} (h : Config.namesOk names = true) :
    symbolOf names Const.etypeIpv4 = some .ipv4 := by
  simp only [Config.namesOk, Bool.and_eq_true, decide_eq_true_eq, List.contains_iff_mem] at h
  exact symbolOf_of_mem h.1.1.1.1 h.1.1.1.2

/-- 10 R47: 0x0806 is named `ARP` in every admissible table. -/
theorem symbolOf_arp {names : List (Half × Symbol)} (h : Config.namesOk names = true) :
    symbolOf names Const.etypeArp = some .arp := by
  simp only [Config.namesOk, Bool.and_eq_true, decide_eq_true_eq, List.contains_iff_mem] at h
  exact symbolOf_of_mem h.1.1.1.1 h.1.1.2

/-- 10 R47: no other key is named `IPv4`. -/
theorem eq_ipv4_of_symbolOf {names : List (Half × Symbol)} (h : Config.namesOk names = true) {v : Half}
    (hv : symbolOf names v = some .ipv4) : v = Const.etypeIpv4 := by
  simp only [Config.namesOk, Bool.and_eq_true, List.all_eq_true] at h
  simpa using h.1.2 _ (symbolOf_mem hv)

/-- A value that is no key is neither of the two mandatory ones. -/
theorem ne_of_not_key {names : List (Half × Symbol)} (h : Config.namesOk names = true) {v : Half}
    (hv : v ∉ names.map Prod.fst) : v ≠ Const.etypeIpv4 ∧ v ≠ Const.etypeArp := by
  simp only [Config.namesOk, Bool.and_eq_true, List.contains_iff_mem] at h
  exact ⟨fun he => hv (he ▸ List.mem_map.mpr ⟨_, h.1.1.1.2, rfl⟩), fun he => hv (he ▸ List.mem_map.mpr ⟨_, h.1.1.2, rfl⟩)⟩

end Sys2Proof
end

