-- ==== Sys2Proof/Laws/State.lean ====
section
/-! SUPPORT. One lemma for each field of `State` and each update: what the update leaves and what it writes. -/

namespace Sys2Proof.Machine

@[simp] theorem State.setHdr_cfg (s : State) (h : Header) : (s.setHdr h).cfg = s.cfg := rfl
@[simp] theorem State.setHdr_raw (s : State) (h : Header) : (s.setHdr h).raw = s.raw := rfl
@[simp] theorem State.setHdr_frameStatus (s : State) (h : Header) : (s.setHdr h).frameStatus = s.frameStatus := rfl
@[simp] theorem State.setHdr_arpStatus (s : State) (h : Header) : (s.setHdr h).arpStatus = s.arpStatus := rfl
@[simp] theorem State.setHdr_hdr (s : State) (h : Header) : (s.setHdr h).hdr = h := rfl
@[simp] theorem State.setHdr_arp (s : State) (h : Header) : (s.setHdr h).arp = s.arp := rfl
@[simp] theorem State.setHdr_cursor (s : State) (h : Header) : (s.setHdr h).cursor = s.cursor := rfl
@[simp] theorem State.setHdr_bufferHeld (s : State) (h : Header) : (s.setHdr h).bufferHeld = s.bufferHeld := rfl
@[simp] theorem State.setHdr_pending (s : State) (h : Header) : (s.setHdr h).pending = s.pending := rfl
@[simp] theorem State.setHdr_answer (s : State) (h : Header) : (s.setHdr h).answer = s.answer := rfl

@[simp] theorem State.setArp_cfg (s : State) (a : ArpRecord) : (s.setArp a).cfg = s.cfg := rfl
@[simp] theorem State.setArp_raw (s : State) (a : ArpRecord) : (s.setArp a).raw = s.raw := rfl
@[simp] theorem State.setArp_frameStatus (s : State) (a : ArpRecord) : (s.setArp a).frameStatus = s.frameStatus := rfl
@[simp] theorem State.setArp_arpStatus (s : State) (a : ArpRecord) : (s.setArp a).arpStatus = s.arpStatus := rfl
@[simp] theorem State.setArp_hdr (s : State) (a : ArpRecord) : (s.setArp a).hdr = s.hdr := rfl
@[simp] theorem State.setArp_arp (s : State) (a : ArpRecord) : (s.setArp a).arp = a := rfl
@[simp] theorem State.setArp_cursor (s : State) (a : ArpRecord) : (s.setArp a).cursor = s.cursor := rfl
@[simp] theorem State.setArp_bufferHeld (s : State) (a : ArpRecord) : (s.setArp a).bufferHeld = s.bufferHeld := rfl
@[simp] theorem State.setArp_pending (s : State) (a : ArpRecord) : (s.setArp a).pending = s.pending := rfl
@[simp] theorem State.setArp_answer (s : State) (a : ArpRecord) : (s.setArp a).answer = s.answer := rfl

@[simp] theorem State.reach_cfg (s : State) (d : Decoder) (v n : Nat) : (s.reach d v n).cfg = s.cfg := rfl
@[simp] theorem State.reach_raw (s : State) (d : Decoder) (v n : Nat) : (s.reach d v n).raw = s.raw := rfl
@[simp] theorem State.reach_frameStatus (s : State) (d : Decoder) (v n : Nat) : (s.reach d v n).frameStatus = s.frameStatus := rfl
@[simp] theorem State.reach_arpStatus (s : State) (d : Decoder) (v n : Nat) : (s.reach d v n).arpStatus = s.arpStatus := rfl
@[simp] theorem State.reach_hdr (s : State) (d : Decoder) (v n : Nat) : (s.reach d v n).hdr = s.hdr := rfl
@[simp] theorem State.reach_arp (s : State) (d : Decoder) (v n : Nat) : (s.reach d v n).arp = s.arp := rfl
@[simp] theorem State.reach_cursor (s : State) (d : Decoder) (v n : Nat) : (s.reach d v n).cursor = some ⟨d, v, n⟩ := rfl
@[simp] theorem State.reach_bufferHeld (s : State) (d : Decoder) (v n : Nat) : (s.reach d v n).bufferHeld = s.bufferHeld := rfl
@[simp] theorem State.reach_pending (s : State) (d : Decoder) (v n : Nat) : (s.reach d v n).pending = s.pending := rfl
@[simp] theorem State.reach_answer (s : State) (d : Decoder) (v n : Nat) : (s.reach d v n).answer = s.answer := rfl

@[simp] theorem State.setAnswer_cfg (s : State) (v : Value) : (s.setAnswer v).cfg = s.cfg := rfl
@[simp] theorem State.setAnswer_raw (s : State) (v : Value) : (s.setAnswer v).raw = s.raw := rfl
@[simp] theorem State.setAnswer_frameStatus (s : State) (v : Value) : (s.setAnswer v).frameStatus = s.frameStatus := rfl
@[simp] theorem State.setAnswer_arpStatus (s : State) (v : Value) : (s.setAnswer v).arpStatus = s.arpStatus := rfl
@[simp] theorem State.setAnswer_hdr (s : State) (v : Value) : (s.setAnswer v).hdr = s.hdr := rfl
@[simp] theorem State.setAnswer_arp (s : State) (v : Value) : (s.setAnswer v).arp = s.arp := rfl
@[simp] theorem State.setAnswer_cursor (s : State) (v : Value) : (s.setAnswer v).cursor = s.cursor := rfl
@[simp] theorem State.setAnswer_bufferHeld (s : State) (v : Value) : (s.setAnswer v).bufferHeld = s.bufferHeld := rfl
@[simp] theorem State.setAnswer_pending (s : State) (v : Value) : (s.setAnswer v).pending = s.pending := rfl
@[simp] theorem State.setAnswer_answer (s : State) (v : Value) : (s.setAnswer v).answer = some v := rfl

@[simp] theorem State.setPending_cfg (s : State) (p : List Op) : (s.setPending p).cfg = s.cfg := rfl
@[simp] theorem State.setPending_raw (s : State) (p : List Op) : (s.setPending p).raw = s.raw := rfl
@[simp] theorem State.setPending_frameStatus (s : State) (p : List Op) : (s.setPending p).frameStatus = s.frameStatus := rfl
@[simp] theorem State.setPending_arpStatus (s : State) (p : List Op) : (s.setPending p).arpStatus = s.arpStatus := rfl
@[simp] theorem State.setPending_hdr (s : State) (p : List Op) : (s.setPending p).hdr = s.hdr := rfl
@[simp] theorem State.setPending_arp (s : State) (p : List Op) : (s.setPending p).arp = s.arp := rfl
@[simp] theorem State.setPending_cursor (s : State) (p : List Op) : (s.setPending p).cursor = s.cursor := rfl
@[simp] theorem State.setPending_bufferHeld (s : State) (p : List Op) : (s.setPending p).bufferHeld = s.bufferHeld := rfl
@[simp] theorem State.setPending_pending (s : State) (p : List Op) : (s.setPending p).pending = p := rfl
@[simp] theorem State.setPending_answer (s : State) (p : List Op) : (s.setPending p).answer = s.answer := rfl

@[simp] theorem raiseTooShort_frame_cfg (s : State) : (raiseTooShort .frame s).cfg = s.cfg := rfl
@[simp] theorem raiseTooShort_frame_raw (s : State) : (raiseTooShort .frame s).raw = s.raw := rfl
@[simp] theorem raiseTooShort_frame_frameStatus (s : State) : (raiseTooShort .frame s).frameStatus = .tooShort := rfl
@[simp] theorem raiseTooShort_frame_arpStatus (s : State) : (raiseTooShort .frame s).arpStatus = .notRun := rfl
@[simp] theorem raiseTooShort_frame_hdr (s : State) : (raiseTooShort .frame s).hdr = Header.invalid := rfl
@[simp] theorem raiseTooShort_frame_arp (s : State) : (raiseTooShort .frame s).arp = ArpRecord.invalid := rfl
@[simp] theorem raiseTooShort_frame_cursor (s : State) : (raiseTooShort .frame s).cursor = none := rfl
@[simp] theorem raiseTooShort_frame_bufferHeld (s : State) : (raiseTooShort .frame s).bufferHeld = s.bufferHeld := rfl
@[simp] theorem raiseTooShort_frame_pending (s : State) : (raiseTooShort .frame s).pending = s.pending.dropWhile (Op.partOf .frame) := rfl
@[simp] theorem raiseTooShort_frame_answer (s : State) : (raiseTooShort .frame s).answer = s.answer := rfl

@[simp] theorem raiseTooShort_arp_cfg (s : State) : (raiseTooShort .arp s).cfg = s.cfg := rfl
@[simp] theorem raiseTooShort_arp_raw (s : State) : (raiseTooShort .arp s).raw = s.raw := rfl
@[simp] theorem raiseTooShort_arp_frameStatus (s : State) : (raiseTooShort .arp s).frameStatus = s.frameStatus := rfl
@[simp] theorem raiseTooShort_arp_arpStatus (s : State) : (raiseTooShort .arp s).arpStatus = .tooShort := rfl
@[simp] theorem raiseTooShort_arp_hdr (s : State) : (raiseTooShort .arp s).hdr = s.hdr := rfl
@[simp] theorem raiseTooShort_arp_arp (s : State) : (raiseTooShort .arp s).arp = ArpRecord.invalid := rfl
@[simp] theorem raiseTooShort_arp_cursor (s : State) : (raiseTooShort .arp s).cursor = none := rfl
@[simp] theorem raiseTooShort_arp_bufferHeld (s : State) : (raiseTooShort .arp s).bufferHeld = s.bufferHeld := rfl
@[simp] theorem raiseTooShort_arp_pending (s : State) : (raiseTooShort .arp s).pending = s.pending.dropWhile (Op.partOf .arp) := rfl
@[simp] theorem raiseTooShort_arp_answer (s : State) : (raiseTooShort .arp s).answer = s.answer := rfl

@[simp] theorem payloadOpaque_cfg (s : State) : (payloadOpaque s).cfg = s.cfg := rfl
@[simp] theorem payloadOpaque_raw (s : State) : (payloadOpaque s).raw = s.raw := rfl
@[simp] theorem payloadOpaque_frameStatus (s : State) : (payloadOpaque s).frameStatus = s.frameStatus := rfl
@[simp] theorem payloadOpaque_arpStatus (s : State) : (payloadOpaque s).arpStatus = .notRun := rfl
@[simp] theorem payloadOpaque_hdr (s : State) : (payloadOpaque s).hdr = s.hdr := rfl
@[simp] theorem payloadOpaque_arp (s : State) : (payloadOpaque s).arp = ArpRecord.invalid := rfl
@[simp] theorem payloadOpaque_cursor (s : State) : (payloadOpaque s).cursor = s.cursor := rfl
@[simp] theorem payloadOpaque_bufferHeld (s : State) : (payloadOpaque s).bufferHeld = s.bufferHeld := rfl
@[simp] theorem payloadOpaque_pending (s : State) : (payloadOpaque s).pending = s.pending := rfl
@[simp] theorem payloadOpaque_answer (s : State) : (payloadOpaque s).answer = s.answer := rfl

@[simp] theorem presentFrame_cfg (bytes : List Byte) (s : State) : (presentFrame bytes s).cfg = s.cfg := rfl
@[simp] theorem presentFrame_raw (bytes : List Byte) (s : State) : (presentFrame bytes s).raw = Frame.ofBytes bytes := rfl
@[simp] theorem presentFrame_frameStatus (bytes : List Byte) (s : State) : (presentFrame bytes s).frameStatus = s.frameStatus := rfl
@[simp] theorem presentFrame_arpStatus (bytes : List Byte) (s : State) : (presentFrame bytes s).arpStatus = s.arpStatus := rfl
@[simp] theorem presentFrame_hdr (bytes : List Byte) (s : State) : (presentFrame bytes s).hdr = s.hdr := rfl
@[simp] theorem presentFrame_arp (bytes : List Byte) (s : State) : (presentFrame bytes s).arp = s.arp := rfl
@[simp] theorem presentFrame_cursor (bytes : List Byte) (s : State) : (presentFrame bytes s).cursor = s.cursor := rfl
@[simp] theorem presentFrame_bufferHeld (bytes : List Byte) (s : State) : (presentFrame bytes s).bufferHeld = false := rfl
@[simp] theorem presentFrame_pending (bytes : List Byte) (s : State) : (presentFrame bytes s).pending = s.pending := rfl
@[simp] theorem presentFrame_answer (bytes : List Byte) (s : State) : (presentFrame bytes s).answer = s.answer := rfl

@[simp] theorem State.tooLong_setHdr (s : State) (h : Header) : (s.setHdr h).tooLong = s.tooLong := rfl
@[simp] theorem State.tooLong_setArp (s : State) (a : ArpRecord) : (s.setArp a).tooLong = s.tooLong := rfl
@[simp] theorem State.tooLong_setPending (s : State) (p : List Op) : (s.setPending p).tooLong = s.tooLong := rfl
@[simp] theorem State.tooLong_reach (s : State) (d : Decoder) (v n : Nat) : (s.reach d v n).tooLong = s.tooLong := rfl
@[simp] theorem State.arpView_setPending (s : State) (p : List Op) : (s.setPending p).arpView = s.arpView := rfl
@[simp] theorem State.arpView_setArp (s : State) (a : ArpRecord) : (s.setArp a).arpView = s.arpView := rfl
@[simp] theorem State.arpView_reach (s : State) (d : Decoder) (v n : Nat) : (s.reach d v n).arpView = s.arpView := rfl
@[simp] theorem State.arpLen_setArp (s : State) (a : ArpRecord) : (s.setArp a).arpLen = s.arpLen := rfl
@[simp] theorem State.arpLen_reach (s : State) (d : Decoder) (v n : Nat) : (s.reach d v n).arpLen = s.arpLen := rfl

end Sys2Proof.Machine
end

