-- ==== Sys2Proof/Laws/Ops.lean ====
section
/-! SUPPORT. One lemma for each shared operation: when it goes on, and everything it can do if it answers a next state. -/

namespace Sys2Proof.Machine

/-! ## Field assembly -/

/-- 30 R80: `value = first*256 + second`. -/
theorem be16_toNat (a b : Byte) : (be16 a b).toNat = a.toNat * 256 + b.toNat := by
  simp only [be16, BitVec.toNat_append]
  rw [← Nat.shiftLeft_add_eq_or_of_lt b.isLt, Nat.shiftLeft_eq]

theorem hiByte_toNat (v : Half) : (hiByte v).toNat = v.toNat / 256 := by
  have := v.isLt
  simp only [hiByte, BitVec.extractLsb'_toNat, Nat.shiftRight_eq_div_pow]
  omega

theorem loByte_toNat (v : Half) : (loByte v).toNat = v.toNat % 256 := by
  simp [loByte, BitVec.extractLsb'_toNat]

@[simp] theorem be16_hiByte_loByte (v : Half) : be16 (hiByte v) (loByte v) = v := by
  apply BitVec.eq_of_toNat_eq
  rw [be16_toNat, hiByte_toNat, loByte_toNat]
  omega

@[simp] theorem hiByte_be16 (a b : Byte) : hiByte (be16 a b) = a := by
  apply BitVec.eq_of_toNat_eq
  rw [hiByte_toNat, be16_toNat]
  have := b.isLt
  omega

@[simp] theorem loByte_be16 (a b : Byte) : loByte (be16 a b) = b := by
  apply BitVec.eq_of_toNat_eq
  rw [loByte_toNat, be16_toNat]
  have := b.isLt
  omega

/-- 30 R82, 00 R12: four bytes as one big-endian number. -/
theorem be32_toNat (a b c d : Byte) :
    (be32 a b c d).toNat = a.toNat * 2 ^ 24 + b.toNat * 2 ^ 16 + c.toNat * 2 ^ 8 + d.toNat := by
  have h := (be16 c d).isLt
  simp only [be32, BitVec.toNat_append]
  rw [← Nat.shiftLeft_add_eq_or_of_lt h, Nat.shiftLeft_eq, be16_toNat, be16_toNat]
  omega

/-! ## Reads and guards -/

@[simp] theorem need_some {α : Type} (v : α) (r : Reg) (k : α → Out) : need (some v) r k = k v := rfl

@[simp] theorem need_none {α : Type} (r : Reg) (k : α → Out) : need none r k = .fault (.invalidRegister r) := rfl

theorem need_next {α : Type} {o : Option α} {r : Reg} {k : α → Out} {t : State} (h : need o r k = .next t) :
    ∃ v, o = some v ∧ k v = .next t := by
  cases o with
  | none => cases h
  | some v => exact ⟨v, rfl, h⟩

theorem validHdr_ok {α : Type} {s : State} (h : s.frameStatus = .ok) (f : Header → Option α) (r : Reg) (k : α → Out) :
    validHdr s f r k = need (f s.hdr) r k := by
  simp [validHdr, h]

theorem validHdr_next {α : Type} {s t : State} {f : Header → Option α} {r : Reg} {k : α → Out}
    (h : validHdr s f r k = .next t) : s.frameStatus = .ok ∧ ∃ v, f s.hdr = some v ∧ k v = .next t := by
  unfold validHdr at h
  split at h
  · exact ⟨‹_›, need_next h⟩
  · cases h

theorem validArp_ok {α : Type} {s : State} (h : s.arpStatus = .ok) (f : ArpRecord → Option α) (r : Reg) (k : α → Out) :
    validArp s f r k = need (f s.arp) r k := by
  simp [validArp, h]

theorem validArp_next {α : Type} {s t : State} {f : ArpRecord → Option α} {r : Reg} {k : α → Out}
    (h : validArp s f r k = .next t) : s.arpStatus = .ok ∧ ∃ v, f s.arp = some v ∧ k v = .next t := by
  unfold validArp at h
  split at h
  · exact ⟨‹_›, need_next h⟩
  · cases h

theorem ifHeld_next {s t : State} {k : Out} (h : ifHeld s k = .next t) : s.bufferHeld = true ∧ k = .next t := by
  unfold ifHeld at h
  split at h
  · exact ⟨‹_›, h⟩
  · cases h

theorem inDecoder_reached {s : State} {d : Decoder} {c n : Nat} (hc : s.cursor = some ⟨d, c, n⟩) (hb : s.bufferHeld = true)
    (k : Nat → Out) : inDecoder d n s k = k c := by
  simp [inDecoder, ifHeld, hc, hb]

/-- A running decoder runs no step but the one it has reached. -/
theorem inDecoder_not_reached {s : State} {d : Decoder} {c m n : Nat} (hc : s.cursor = some ⟨d, c, m⟩)
    (hb : s.bufferHeld = true) (hn : m ≠ n) (k : Nat → Out) : inDecoder d n s k = .fault (.stepNotReached d) := by
  simp [inDecoder, ifHeld, hc, hb, hn]

theorem inDecoder_next {s t : State} {d : Decoder} {n : Nat} {k : Nat → Out} (h : inDecoder d n s k = .next t) :
    ∃ c, s.cursor = some ⟨d, c, n⟩ ∧ s.bufferHeld = true ∧ k c = .next t := by
  unfold inDecoder at h
  split at h
  · rename_i c hc
    split at h
    · rename_i ho
      obtain ⟨hb, hk⟩ := ifHeld_next h
      split at hk
      · rename_i hn
        exact ⟨c.off, by rw [hc, ← ho, ← hn], hb, hk⟩
      · cases hk
    · cases h
  · cases h

theorem memRead16_next {s t : State} {a : Nat} {k : Half → Out} (h : memRead16 s a k = .next t) :
    a + 2 ≤ s.raw.len ∧ k (be16 (s.raw.byte a) (s.raw.byte (a + 1))) = .next t := by
  unfold memRead16 at h
  split at h
  · exact ⟨‹_›, h⟩
  · cases h

theorem memRead32_next {s t : State} {a : Nat} {k : Word → Out} (h : memRead32 s a k = .next t) :
    a + 4 ≤ s.raw.len ∧
      k (be32 (s.raw.byte a) (s.raw.byte (a + 1)) (s.raw.byte (a + 2)) (s.raw.byte (a + 3))) = .next t := by
  unfold memRead32 at h
  split at h
  · exact ⟨‹_›, h⟩
  · cases h

theorem memRead8_next {s t : State} {a : Nat} {k : Byte → Out} (h : memRead8 s a k = .next t) :
    a + 1 ≤ s.raw.len ∧ k (s.raw.byte a) = .next t := by
  unfold memRead8 at h
  split at h
  · exact ⟨‹_›, h⟩
  · cases h

theorem memMac_next {s t : State} {a : Nat} {k : Mac → Out} (h : memMac s a k = .next t) :
    a + 6 ≤ s.raw.len ∧ k (s.raw.macAt a) = .next t := by
  unfold memMac at h
  split at h
  · exact ⟨‹_›, h⟩
  · cases h

/-! ## Running steps -/

@[simp] theorem runSteps_nil (failed : State → Bool) (s : State) : runSteps failed [] s = .next s := rfl

theorem runSteps_cons_next {failed : State → Bool} {f : State → Out} {rest : List (State → Out)} {s t : State}
    (h : f s = .next t) :
    runSteps failed (f :: rest) s = if failed t then .next t else runSteps failed rest t := by
  simp [runSteps, h]

/-- What a run of steps keeps: a relation that each step keeps from a state that is related, the run keeps. -/
theorem runSteps_keeps {failed : State → Bool} {P : State → Prop} {steps : List (State → Out)}
    (hs : ∀ f ∈ steps, ∀ s t, P s → f s = .next t → P t) {s t : State} (hp : P s)
    (h : runSteps failed steps s = .next t) : P t := by
  induction steps generalizing s with
  | nil => cases h; exact hp
  | cons f rest ih =>
    simp only [runSteps] at h
    split at h
    · rename_i u hu
      have hpu : P u := hs f (by simp) s u hp hu
      split at h
      · cases h; exact hpu
      · exact ih (fun g hg => hs g (by simp [hg])) hpu h
    · cases h
    · cases h

theorem andThen_next {o : Out} {k : State → Out} {t : State} (h : andThen o k = .next t) :
    ∃ u, o = .next u ∧ k u = .next t := by
  cases o with
  | next u => exact ⟨u, rfl, h⟩
  | fault r => cases h
  | refused r => cases h

/-- Everything a start can do if it answers a next state. -/
theorem startFrame_next {s t : State} (h : startFrame s = .next t) :
    s.tooLong = false ∧
      t = { s with frameStatus := .none, arpStatus := .notRun, hdr := Header.cleared, arp := ArpRecord.cleared,
                   cursor := some ⟨.frame, 0, 0⟩, bufferHeld := true, answer := none } := by
  unfold startFrame at h
  split at h
  · cases h
  · rename_i hl
    cases h
    exact ⟨by simpa using hl, rfl⟩

theorem startArpPayload_next {s t : State} (h : startArpPayload s = .next t) :
    s.frameStatus = .ok ∧ s.bufferHeld = true ∧ (∃ o, s.hdr.payloadOff = some o) ∧ (∃ n, s.hdr.payloadLen = some n) ∧
      t = { s with arpStatus := .notRun, arp := ArpRecord.cleared, cursor := some ⟨.arp, 0, 0⟩, answer := none } := by
  obtain ⟨hok, o, ho, h⟩ := validHdr_next h
  obtain ⟨-, n, hn, h⟩ := validHdr_next h
  obtain ⟨hb, h⟩ := ifHeld_next h
  cases h
  exact ⟨hok, hb, ⟨o, ho⟩, ⟨n, hn⟩, rfl⟩

/-- Everything the return of FrameDecoder can do if it answers a next state. -/
theorem decoderReturn_frame_next {s t : State} (h : decoderReturn .frame s = .next t) :
    (∃ c, s.cursor = some ⟨.frame, c, 9⟩) ∧ s.bufferHeld = true ∧
      t = { s with frameStatus := .ok, arp := ArpRecord.invalid, cursor := none } := by
  obtain ⟨c, hc, hb, h⟩ := inDecoder_next h
  cases h
  exact ⟨⟨c, hc⟩, hb, rfl⟩

/-- Everything the return of ArpDecoder can do if it answers a next state. -/
theorem decoderReturn_arp_next {s t : State} (h : decoderReturn .arp s = .next t) :
    (∃ c, s.cursor = some ⟨.arp, c, 13⟩) ∧ s.bufferHeld = true ∧ t = { s with arpStatus := .ok, cursor := none } := by
  obtain ⟨c, hc, hb, h⟩ := inDecoder_next h
  cases h
  exact ⟨⟨c, hc⟩, hb, rfl⟩

/-- Everything a register read can do if it answers a next state. -/
theorem readRegister_next {r : Reg} {s t : State} (h : readRegister r s = .next t) :
    ∃ v, regValue s r = some v ∧ (r.isView = true → s.bufferHeld = true) ∧ t = s.setAnswer v := by
  unfold readRegister at h
  split at h
  · cases h
  · rename_i v hv
    refine ⟨v, hv, ?_⟩
    split at h
    · obtain ⟨hb, h⟩ := ifHeld_next h
      cases h
      exact ⟨fun _ => hb, rfl⟩
    · cases h
      exact ⟨fun hr => absurd hr ‹_›, rfl⟩

/-- What an operand's bytes are when a formatting function goes on. -/
theorem seqValue_lit (s : State) (bytes : List Byte) (k : List Byte → Out) : seqValue s (.lit bytes) k = k bytes := rfl

/-- With nothing asked for the machine holds its state (60 R205). -/
theorem step_idle {s : State} (h : s.pending = []) : step s = .next s := by
  simp [step, h]

theorem step_cons {s : State} {op : Op} {rest : List Op} (h : s.pending = op :: rest) :
    step s = doOp op (s.setPending rest) := by
  simp [step, h]

end Sys2Proof.Machine
end

