-- ==== Sys2Proof/Laws/PerInstr.lean ====
section
/-! SUPPORT. The round trip of the encoder and the decoder, instruction by instruction. -/

namespace Sys2Proof.Laws.RoundTrip

/-- Whatever encoding a well-formed instruction has, decoding it gives the instruction back. -/
def Statement (i : Instr) : Prop :=
  ∀ (names : List (Half × Symbol)) (w : Window) (bytes : List Byte),
    Config.namesOk names = true → i.wf names = true → encode i = some (w, bytes) → decode names w bytes = .ok i

theorem cpEth12Vlan : Statement .cpEth12Vlan := by
  intro names w bytes _ _ h
  cases h
  rfl

theorem cpEth12Plain (v : Half) : Statement (.cpEth12Plain v) := by
  intro names w bytes hn hw h
  cases h
  simp_all [Instr.wf, decode, decodeHalf, halfBytes]

theorem cpEtypeArp : Statement .cpEtypeArp := by
  intro names w bytes _ _ h
  cases h
  rfl

theorem cpEtypeLength (v : Half) : Statement (.cpEtypeLength v) := by
  intro names w bytes hn hw h
  cases h
  have hne : v ≠ Const.etypeArp := by
    rintro rfl
    simp [Instr.wf, Const.etypeArp, Const.lenThreshold] at hw
  simp_all [Instr.wf, decode, decodeHalf, halfBytes]

theorem cpEtypeOther (v : Half) : Statement (.cpEtypeOther v) := by
  intro names w bytes hn hw h
  cases h
  simp_all [Instr.wf, decode, decodeHalf, halfBytes]

theorem cpHtypeEthernet : Statement .cpHtypeEthernet := by
  intro names w bytes _ _ h
  cases h
  rfl

theorem cpHtypeOther (v : Half) : Statement (.cpHtypeOther v) := by
  intro names w bytes hn hw h
  cases h
  simp_all [Instr.wf, decode, decodeHalf, halfBytes]

theorem cpPtypeIpv4 : Statement .cpPtypeIpv4 := by
  intro names w bytes _ _ h
  cases h
  rfl

theorem cpPtypeArp : Statement .cpPtypeArp := by
  intro names w bytes _ _ h
  cases h
  rfl

theorem cpPtypeOther (v : Half) : Statement (.cpPtypeOther v) := by
  intro names w bytes hn hw h
  cases h
  have hk : v ∉ names.map Prod.fst := by simpa [Instr.wf] using hw
  obtain ⟨h4, ha⟩ := ne_of_not_key hn hk
  simp [decode, decodeHalf, halfBytes, h4, ha, symbolOf_eq_none hk]

theorem cpOperRequest : Statement .cpOperRequest := by
  intro names w bytes _ _ h
  cases h
  rfl

theorem cpOperReply : Statement .cpOperReply := by
  intro names w bytes _ _ h
  cases h
  rfl

theorem cpOperOther (v : Half) : Statement (.cpOperOther v) := by
  intro names w bytes hn hw h
  cases h
  simp_all [Instr.wf, decode, decodeHalf, halfBytes]

theorem demux : Statement .demux := by
  intro names w bytes _ _ h
  cases h

theorem demuxSel : Statement .demuxSel := by
  intro names w bytes _ _ h
  cases h

theorem frameDecode : Statement .frameDecode := by
  intro names w bytes _ _ h
  cases h

theorem fdLenchk : Statement .fdLenchk := by
  intro names w bytes _ _ h
  cases h

theorem fdMacdst : Statement .fdMacdst := by
  intro names w bytes _ _ h
  cases h

theorem fdMacsrc : Statement .fdMacsrc := by
  intro names w bytes _ _ h
  cases h

theorem fdVlanpeek : Statement .fdVlanpeek := by
  intro names w bytes _ _ h
  cases h

theorem fdVlanchk : Statement .fdVlanchk := by
  intro names w bytes _ _ h
  cases h

theorem fdVlantag : Statement .fdVlantag := by
  intro names w bytes _ _ h
  cases h

theorem fdEtype : Statement .fdEtype := by
  intro names w bytes _ _ h
  cases h

theorem fdPayload : Statement .fdPayload := by
  intro names w bytes _ _ h
  cases h

theorem fdLenwarn : Statement .fdLenwarn := by
  intro names w bytes _ _ h
  cases h

theorem macFmt (src : SeqOperand) : Statement (.macFmt src) := by
  intro names w bytes _ _ h
  cases h

theorem arpDecode (src : ArpInput) : Statement (.arpDecode src) := by
  intro names w bytes _ _ h
  cases h

theorem adLenchk : Statement .adLenchk := by
  intro names w bytes _ _ h
  cases h

theorem adHdrchk : Statement .adHdrchk := by
  intro names w bytes _ _ h
  cases h

theorem adHtype : Statement .adHtype := by
  intro names w bytes _ _ h
  cases h

theorem adPtype : Statement .adPtype := by
  intro names w bytes _ _ h
  cases h

theorem adHlen : Statement .adHlen := by
  intro names w bytes _ _ h
  cases h

theorem adPlen : Statement .adPlen := by
  intro names w bytes _ _ h
  cases h

theorem adOper : Statement .adOper := by
  intro names w bytes _ _ h
  cases h

theorem adSha : Statement .adSha := by
  intro names w bytes _ _ h
  cases h

theorem adSpa : Statement .adSpa := by
  intro names w bytes _ _ h
  cases h

theorem adTha : Statement .adTha := by
  intro names w bytes _ _ h
  cases h

theorem adTpa : Statement .adTpa := by
  intro names w bytes _ _ h
  cases h

theorem adTrunc : Statement .adTrunc := by
  intro names w bytes _ _ h
  cases h

theorem adTrail : Statement .adTrail := by
  intro names w bytes _ _ h
  cases h

theorem avHwname : Statement .avHwname := by
  intro names w bytes _ _ h
  cases h

theorem avPtname : Statement .avPtname := by
  intro names w bytes _ _ h
  cases h

theorem hexjoin (src : SeqOperand) : Statement (.hexjoin src) := by
  intro names w bytes _ _ h
  cases h

theorem dotted (src : SeqOperand) : Statement (.dotted src) := by
  intro names w bytes _ _ h
  cases h

theorem avSpaStr : Statement .avSpaStr := by
  intro names w bytes _ _ h
  cases h

theorem avTpaStr : Statement .avTpaStr := by
  intro names w bytes _ _ h
  cases h

theorem avShaStr : Statement .avShaStr := by
  intro names w bytes _ _ h
  cases h

theorem avThaStr : Statement .avThaStr := by
  intro names w bytes _ _ h
  cases h

theorem avOpclass : Statement .avOpclass := by
  intro names w bytes _ _ h
  cases h

end Sys2Proof.Laws.RoundTrip
end

