-- ==== Sys2Proof/Laws/Runs.lean ====
section
/-! SUPPORT. The two decoders' runs in closed form: everything that FRAME_DECODE and a run of ArpDecoder can answer. -/

namespace Sys2Proof.Machine

/-- `stepsFor` is the host's run of the machine. -/
theorem core_run_eq (n : Nat) (s : State) : Host.Core.run core n s = stepsFor n s := by
  induction n generalizing s with
  | zero => rfl
  | succ n ih =>
    have hc : core.step s = step s := rfl
    simp only [Host.Core.run, stepsFor, hc]
    cases step s with
    | next t => exact ih t
    | fault r => rfl
    | refused r => rfl

/-- A step that goes on, then the rest of the run. -/
theorem stepsFor_next {n : Nat} {s t : State} (h : step s = .next t) : stepsFor (n + 1) s = stepsFor n t := by
  simp [stepsFor, h, andThen]

/-- A step that is refused ends the run. -/
theorem stepsFor_refused {n : Nat} {s : State} {r : Refusal} (h : step s = .refused r) : stepsFor (n + 1) s = .refused r := by
  simp [stepsFor, h, andThen]

/-- A step that faults ends the run. -/
theorem stepsFor_fault {n : Nat} {s : State} {r : Fault} (h : step s = .fault r) : stepsFor (n + 1) s = .fault r := by
  simp [stepsFor, h, andThen]

/-- The marker test of a frame (41 R114). -/
def Frame.tagged (f : Frame) : Bool := be16 (f.byte 12) (f.byte 13) == Const.vlanMarker

/-- A frame in which FrameDecoder fails (60 R186). -/
def Frame.short (f : Frame) : Bool := f.len < 15 || (f.tagged && f.len < 18)

/-- The EtherType of a frame (41 R117). -/
def Frame.etype (f : Frame) : Half :=
  if f.tagged then be16 (f.byte 16) (f.byte 17) else be16 (f.byte 12) (f.byte 13)

/-- The header that FrameDecoder leaves of a frame. -/
def Frame.header (f : Frame) : Header :=
  { macDest := some (f.macAt 0), macSrc := some (f.macAt 6), vlanPresent := some f.tagged,
    vlanTag := if f.tagged then some (be32 (f.byte 12) (f.byte 13) (f.byte 14) (f.byte 15)) else none,
    etherType := some f.etype, hdrLen := some (headerLength f.tagged), payloadOff := some (headerLength f.tagged),
    payloadLen := some (f.len - headerLength f.tagged),
    wLenMismatch := some (lenMismatch f.etype (f.len - headerLength f.tagged)) }

/-- The state after a hard failure of FrameDecoder in a transaction on the buffer. -/
def frameFailure (s : State) : State :=
  { s with frameStatus := .tooShort, arpStatus := .notRun, hdr := Header.invalid, arp := ArpRecord.invalid, cursor := none,
           bufferHeld := true, answer := none, pending := s.pending.dropWhile (Op.partOf .frame) }

/-- The state after a success of FrameDecoder in a transaction on the buffer. -/
def frameSuccess (s : State) : State :=
  { s with frameStatus := .ok, arpStatus := .notRun, hdr := s.raw.header, arp := ArpRecord.invalid, cursor := none,
           bufferHeld := true, answer := none }

theorem tagged_bits {f : Frame} (h : f.tagged = true) : (be16 (f.byte 12) (f.byte 13) == Const.vlanMarker) = true := h

/-- FRAME_DECODE in closed form. -/
theorem execFrameDecode_eq (s : State) :
    execFrameDecode s =
      if s.tooLong then .refused .frameTooLong
      else .next (if s.raw.short then frameFailure s else frameSuccess s) := by
  by_cases hl : s.tooLong = true
  · simp [execFrameDecode, runSteps, startFrame, hl]
  · by_cases h15 : s.raw.len < 15
    · simp [execFrameDecode, runSteps, startFrame, hl, frameSteps, execFdLenchk, inDecoder, ifHeld, frameFailed, Frame.short,
        h15, Const.minFrameBytes, raiseTooShort, frameFailure]
    · have h6 : 6 ≤ s.raw.len := by omega
      have h12 : 12 ≤ s.raw.len := by omega
      have h14 : 14 ≤ s.raw.len := by omega
      have ht : s.raw.tagged = (be16 (s.raw.byte 12) (s.raw.byte 13) == Const.vlanMarker) := rfl
      cases htag : s.raw.tagged with
      | false =>
        rw [htag] at ht
        simp [execFrameDecode, runSteps, startFrame, hl, frameSteps, execFdLenchk, execFdMacdst, execFdMacsrc, execFdVlanpeek,
          execFdVlanchk, execFdVlantag, execFdEtype, execFdPayload, execFdLenwarn, decoderReturn, inDecoder, ifHeld,
          frameFailed, Frame.short, h15, Const.minFrameBytes, memMac, memRead16, h6, h12, h14, need, State.setHdr,
          State.reach, Decoder.stepCount, ← ht, htag, headerLength, Const.hdrLenUntagged, frameSuccess, lenwarnOf, Frame.header,
          Frame.etype, Header.cleared, Header.invalid]
      | true =>
        rw [htag] at ht
        by_cases h18 : s.raw.len < 18
        · simp [execFrameDecode, runSteps, startFrame, hl, frameSteps, execFdLenchk, execFdMacdst, execFdMacsrc,
            execFdVlanpeek, execFdVlanchk, inDecoder, ifHeld, frameFailed, Frame.short, h15, Const.minFrameBytes, memMac,
            memRead16, h6, h12, h14, need, State.setHdr, State.reach, ← ht, htag, Const.hdrLenTagged, h18, raiseTooShort,
            frameFailure]
        · have h16 : 16 ≤ s.raw.len := by omega
          have h18' : 18 ≤ s.raw.len := by omega
          simp [execFrameDecode, runSteps, startFrame, hl, frameSteps, execFdLenchk, execFdMacdst, execFdMacsrc,
            execFdVlanpeek, execFdVlanchk, execFdVlantag, execFdEtype, execFdPayload, execFdLenwarn, decoderReturn,
            inDecoder, ifHeld, frameFailed, Frame.short, h15, Const.minFrameBytes, memMac, memRead16, memRead32, h6, h12,
            h14, h16, h18, h18', need, State.setHdr, State.reach, Decoder.stepCount, ← ht, htag, headerLength, Const.hdrLenTagged,
            frameSuccess, lenwarnOf, Frame.header, Frame.etype, Header.cleared, Header.invalid]

/-! ## ArpDecoder -/

/-- The record that ArpDecoder leaves of the `n` bytes of the buffer from offset `o` on. -/
def Frame.record (f : Frame) (o n : Nat) : ArpRecord :=
  let h := (f.byte (o + 4)).toNat
  let p := (f.byte (o + 5)).toNat
  { hardwareType := some (be16 (f.byte o) (f.byte (o + 1))), protocolType := some (be16 (f.byte (o + 2)) (f.byte (o + 3))),
    hardwareLen := some (f.byte (o + 4)), protocolLen := some (f.byte (o + 5)),
    operation := some (be16 (f.byte (o + 6)) (f.byte (o + 7))),
    senderHwAddr := some (f.slice (o + 8) h), senderProtoAddr := some (f.slice (o + (8 + h)) p),
    targetHwAddr := some (f.slice (o + (8 + h + p)) h), targetProtoAddr := some (f.slice (o + (8 + h + p + h)) p),
    arpConsumed := some (8 + h + p + h + p), trailOff := some (8 + h + p + h + p), trailLen := some (n - (8 + h + p + h + p)),
    wArpUnderlen := some (arpUnderlen n),
    wArpTrailing := some (anyNonZero (f.slice (o + (8 + h + p + h + p)) (n - (8 + h + p + h + p)))),
    wArpTrunc := some (arpTrunc n (8 + h + p + h + p)) }

/-- ArpDecoder has been started and has not yet run a step. -/
structure State.ArpStarted (s : State) : Prop where
  status : s.arpStatus = .notRun
  record : s.arp = ArpRecord.cleared
  cursor : s.cursor = some ⟨.arp, 0, 0⟩
  held   : s.bufferHeld = true

/-- The steps of ArpDecoder and its return, in closed form. -/
theorem runSteps_arp_eq {s : State} (hs : s.ArpStarted) (hin : s.arpView.1 + s.arpView.2 ≤ s.raw.len) :
    runSteps arpFailed (arpSteps ++ [decoderReturn .arp]) s =
      .next (if s.arpView.2 < 8 then raiseTooShort .arp s
        else { s with arpStatus := .ok, arp := s.raw.record s.arpView.1 s.arpView.2, cursor := none }) := by
  obtain ⟨h1, h2, h3, h4⟩ := hs
  have hlen : s.arpLen = s.arpView.2 := rfl
  by_cases h8 : s.arpView.2 < 8
  · simp [runSteps, arpSteps, execAdLenchk, execAdHdrchk, inDecoder, ifHeld, h1, h3, h4, arpFailed, hlen, h8,
      Const.arpFixedLen]
    simp [raiseTooShort, State.setArp, State.reach]
  · have b (i : Nat) (hi : i ≤ 8) : s.arpView.1 + i ≤ s.raw.len := by omega
    simp [runSteps, arpSteps, execAdLenchk, execAdHdrchk, execAdHtype, execAdPtype, execAdHlen, execAdPlen, execAdOper,
      execAdSha, execAdSpa, execAdTha, execAdTpa, execAdTrunc, execAdTrail, decoderReturn, inDecoder, ifHeld, h1, h2, h3, h4,
      arpFailed, hlen, h8, Const.arpFixedLen, payRead16, payRead8, memRead16, memRead8, Nat.add_assoc, b, State.paySlice,
      Decoder.stepCount, ArpRecord.cleared, ArpRecord.invalid]
    simp [Frame.record, Nat.add_assoc]

/-- ArpDecoder on the payload view, in closed form (42 R130). -/
theorem arpRun_payload_eq {s : State} {o n : Nat} (hok : s.frameStatus = .ok) (hb : s.bufferHeld = true)
    (ho : s.hdr.payloadOff = some o) (hn : s.hdr.payloadLen = some n) (hin : o + n ≤ s.raw.len) :
    arpRun .arpPayload s =
      .next (if n < 8 then
          { s with arpStatus := .tooShort, arp := ArpRecord.invalid, cursor := none, answer := none,
                   pending := s.pending.dropWhile (Op.partOf .arp) }
        else { s with arpStatus := .ok, arp := s.raw.record o n, cursor := none, answer := none }) := by
  let u : State := { s with arpStatus := .notRun, arp := ArpRecord.cleared, cursor := some ⟨.arp, 0, 0⟩, answer := none }
  have hu : u.ArpStarted := ⟨rfl, rfl, rfl, hb⟩
  have hview : u.arpView = (o, n) := by simp [State.arpView, u, ho, hn]
  have hrun := runSteps_arp_eq hu (by rw [hview]; exact hin)
  have hst : startRun .arpPayload s = .next u := by
    simp [startRun, startArpPayload, validHdr, hok, ho, hn, ifHeld, hb, u]
  rw [arpRun, runSteps_cons_next hst, hrun, hview]
  by_cases h8 : n < 8 <;> simp [arpFailed, u, h8, raiseTooShort]

/-- ArpDecoder alone on the whole buffer, in closed form (40 R107). -/
theorem arpRun_whole_eq (s : State) :
    arpRun .arpWhole s =
      .next (if s.raw.len < 8 then
          { s with frameStatus := .none, arpStatus := .tooShort, hdr := Header.invalid, arp := ArpRecord.invalid,
                   cursor := none, bufferHeld := true, answer := none, pending := s.pending.dropWhile (Op.partOf .arp) }
        else { s with frameStatus := .none, arpStatus := .ok, hdr := Header.invalid, arp := s.raw.record 0 s.raw.len,
                      cursor := none, bufferHeld := true, answer := none }) := by
  let u : State := { s with frameStatus := .none, arpStatus := .notRun, hdr := Header.invalid, arp := ArpRecord.cleared,
                            cursor := some ⟨.arp, 0, 0⟩, bufferHeld := true, answer := none }
  have hu : u.ArpStarted := ⟨rfl, rfl, rfl, rfl⟩
  have hview : u.arpView = (0, s.raw.len) := rfl
  have hrun := runSteps_arp_eq hu (by rw [hview]; simp [u])
  have hst : startRun .arpWhole s = .next u := rfl
  rw [arpRun, runSteps_cons_next hst, hrun, hview]
  by_cases h8 : s.raw.len < 8 <;> simp [arpFailed, u, h8, raiseTooShort]

/-! ## DEMUX -/

/-- A frame that FrameDecoder accepts holds its header. -/
theorem headerLength_le_of_not_short {f : Frame} (h : f.short = false) : headerLength f.tagged ≤ f.len := by
  simp only [Frame.short, Bool.or_eq_false_iff, decide_eq_false_iff_not, Bool.and_eq_false_iff, not_lt] at h
  obtain ⟨h15, htag⟩ := h
  rcases htag with ht | ht
  · simp only [ht, headerLength, Const.hdrLenUntagged, Bool.false_eq_true, if_false]; omega
  · simp only [headerLength, Const.hdrLenTagged, Const.hdrLenUntagged]; split <;> omega

/-- DEMUX in closed form (40 R100). -/
theorem execDemux_eq (s : State) :
    execDemux s =
      if s.tooLong then .refused .frameTooLong
      else if s.raw.short then .next (frameFailure s)
      else if selectsArp s.raw.etype then
        .next (if s.raw.len - headerLength s.raw.tagged < 8 then
            { frameSuccess s with arpStatus := .tooShort, pending := s.pending.dropWhile (Op.partOf .arp) }
          else { frameSuccess s with
                  arpStatus := .ok
                  arp := s.raw.record (headerLength s.raw.tagged) (s.raw.len - headerLength s.raw.tagged) })
      else .next (frameSuccess s) := by
  rw [execDemux, execFrameDecode_eq]
  by_cases hl : s.tooLong = true
  · simp [hl, andThen]
  · cases hs : s.raw.short with
    | true => simp [hl, andThen, frameFailed, frameFailure]
    | false =>
      have hle := headerLength_le_of_not_short hs
      have harp := arpRun_payload_eq (s := frameSuccess s) (o := headerLength s.raw.tagged)
        (n := s.raw.len - headerLength s.raw.tagged) rfl rfl rfl rfl (by simp [frameSuccess]; omega)
      have hf : frameFailed (frameSuccess s) = false := rfl
      have het : validHdr (frameSuccess s) (·.etherType) .etherType =
          fun k => k s.raw.etype := by funext k; rfl
      simp only [hl, andThen, hf, het, harp, Bool.false_eq_true, if_false]
      by_cases hsel : selectsArp s.raw.etype = true
      · simp [hsel, frameSuccess]
      · simp [hsel, payloadOpaque, frameSuccess]

/-- Everything that FD.LENWARN can do with an EtherType if it goes on (41 R119). -/
theorem lenwarnOf_next {etherType : Half} {off : Nat} {s t : State} (h : lenwarnOf etherType off s = .next t) :
    ∃ n, s.hdr.payloadLen = some n ∧
      t = (s.setHdr { s.hdr with wLenMismatch := some (lenMismatch etherType n) }).reach .frame off 9 := by
  obtain ⟨n, hn, h⟩ := need_next h
  cases h
  exact ⟨n, hn, rfl⟩

/-- Everything that the end of FrameDecoder before an EtherType's code point can do if it goes on (30 R84): the run's last flag and
its return; or nothing, after the return. -/
theorem finishFrame_next {etherType : Half} {s t : State} (h : finishFrame etherType s = .next t) :
    s.bufferHeld = true ∧
      ((∃ c n, s.cursor = some ⟨.frame, c, 8⟩ ∧ s.hdr.payloadLen = some n ∧
        t = { s with hdr := { s.hdr with wLenMismatch := some (lenMismatch etherType n) }, frameStatus := .ok,
                     arp := ArpRecord.invalid, cursor := none }) ∨
       (s.cursor = none ∧ s.frameStatus = .ok ∧ (∃ v, s.hdr.etherType = some v) ∧ t = s)) := by
  unfold finishFrame at h
  split at h
  · obtain ⟨c, hc, hb, h⟩ := inDecoder_next h
    obtain ⟨u, hu, h⟩ := andThen_next h
    obtain ⟨n, hn, rfl⟩ := lenwarnOf_next hu
    obtain ⟨-, -, rfl⟩ := decoderReturn_frame_next h
    exact ⟨hb, .inl ⟨c, n, hc, hn, rfl⟩⟩
  · obtain ⟨hok, v, hv, h⟩ := validHdr_next h
    obtain ⟨hb, h⟩ := ifHeld_next h
    cases h
    exact ⟨hb, .inr ⟨‹_›, hok, ⟨v, hv⟩, rfl⟩⟩

/-! ## What the closed forms say of the bytes -/

/-- 16 bits of the buffer, inside the frame, are `MemRead` of two bytes (00 R12, R14). -/
theorem be16At_raw (f : Frame) (o : Nat) (h : o + 2 ≤ f.len) : be16At f.bytes o = (be16 (f.byte o) (f.byte (o + 1))).toNat := by
  have h1 : o < f.len := by omega
  have h2 : o+1 < f.len := by omega
  simp [be16At, be16_toNat, Frame.bytes, Frame.bytesFrom, h1, h2]
/-- 32 bits of the buffer, inside the frame. -/
theorem be32At_raw (f : Frame) (o : Nat) (h : o + 4 ≤ f.len) : be32At f.bytes o = (be32 (f.byte o) (f.byte (o + 1)) (f.byte (o + 2)) (f.byte (o + 3))).toNat := by
  have h1 : o < f.len := by omega
  have h2 : o+1 < f.len := by omega
  have h3 : o+2 < f.len := by omega
  have h4 : o+3 < f.len := by omega
  simp [be32At, be32_toNat, Frame.bytes, Frame.bytesFrom, h1, h2, h3, h4]
@[simp] theorem Frame.length_bytes (f : Frame) : f.bytes.length = f.len := by simp [Frame.bytes]

/-- The marker test reads the 16 bits at offset 12 (30 R83). -/
theorem Frame.tagged_iff (f : Frame) (h : 14 ≤ f.len) : f.tagged = true ↔ taggedBytes f.bytes := by
  rw [taggedBytes, be16At_raw f 12 h, Frame.tagged, beq_iff_eq]
  constructor
  · intro h; rw [h]; rfl
  · intro h; exact BitVec.eq_of_toNat_eq h

/-- FrameDecoder fails exactly on a frame too short for its header (60 R186). -/
theorem Frame.short_iff (f : Frame) : f.short = true ↔ tooShortBytes f.bytes := by
  simp only [Frame.short, tooShortBytes, Bool.or_eq_true, decide_eq_true_eq, Bool.and_eq_true, Frame.length_bytes]
  by_cases h : f.len < 15
  · simp [h]
  · rw [Frame.tagged_iff f (by omega)]

/-- `Slice` is the clamped slice of the byte sequence (00 R14). -/
theorem Frame.slice_eq (f : Frame) (a n : Nat) : f.slice a n = (f.bytes.drop a).take n := by
  apply List.ext_getElem
  · simp
  · intro i h1 h2
    simp [Frame.slice, Frame.bytesFrom, Frame.bytes]

/-- Six bytes as an address, in wire order (20 R54). -/
theorem Frame.macAt_toList (f : Frame) (a : Nat) (h : a + 6 ≤ f.len) : (f.macAt a).toList = (f.bytes.drop a).take 6 := by
  rw [← Frame.slice_eq]
  have : min 6 (f.len - a) = 6 := by omega
  simp [Frame.slice, this, Frame.bytesFrom, Frame.macAt, Mac.toList, List.range_succ]

/-- The header of an accepted frame says what the frame says. -/
theorem Frame.header_matches (f : Frame) (h : f.short = false) : HeaderMatches f f.header := by
  have hle := headerLength_le_of_not_short h
  have h15 : 15 ≤ f.len := by
    simp [Frame.short] at h; omega
  have ht := Frame.tagged_iff f (by omega)
  have h18 : f.tagged = true → 18 ≤ f.len := by
    intro ht; simp [Frame.short, ht] at h; omega
  constructor
  · rintro m ⟨⟩; exact Frame.macAt_toList f 0 (by omega)
  · rintro m ⟨⟩; exact Frame.macAt_toList f 6 (by omega)
  · rintro b ⟨⟩; exact ht
  · intro v hv
    simp only [Frame.header] at hv
    split at hv
    · cases hv; rename_i hh; exact ⟨ht.1 hh, (be32At_raw f 12 (by have := h18 hh; omega)).symm⟩
    · cases hv
  · rintro v ⟨⟩
    constructor
    · intro hh
      have h1 := ht.2 hh
      rw [be16At_raw f 16 (by have := h18 h1; omega)]; simp [Frame.etype, h1]
    · intro hh
      have h1 : f.tagged = false := by rw [← ht] at hh; simpa using hh
      rw [be16At_raw f 12 (by omega)]; simp [Frame.etype, h1]
  · rintro n ⟨⟩
    rw [← ht]; cases f.tagged <;> simp [headerLength, Const.hdrLenTagged, Const.hdrLenUntagged]
  · rintro o ⟨⟩
    exact ⟨rfl, f.len - headerLength f.tagged, rfl, Nat.add_sub_cancel' hle⟩

/-- The header of a frame is complete. -/
theorem Frame.header_complete (f : Frame) : f.header.complete = true := by
  cases h : f.tagged <;> simp [Header.complete, Frame.header, h]

/-- The record of a payload of at least 8 bytes at the end of the buffer says what the payload says. -/
theorem Frame.record_matches (f : Frame) (o n : Nat) (hn : 8 ≤ n) (h : o + n = f.len) : RecordMatches (f.bytes.drop o) (f.record o n) := by
  have hg : ∀ i, i < 8 → (f.bytes.drop o).getD i 0#8 = f.byte (o+i) := by
    intro i hi
    have : o + i < f.len := by omega
    simp [Frame.bytes, Frame.bytesFrom, this]
  have hl : (f.bytes.drop o).length = n := by simp; omega
  constructor
  · exact ⟨_, rfl, by rw [be16At, hg _ (by omega), hg _ (by omega), be16_toNat]; rfl⟩
  · exact ⟨_, rfl, by rw [be16At, hg _ (by omega), hg _ (by omega), be16_toNat]⟩
  · rw [hg _ (by omega)]; rfl
  · rw [hg _ (by omega)]; rfl
  · exact ⟨_, rfl, by rw [be16At, hg _ (by omega), hg _ (by omega), be16_toNat]⟩
  · rintro h' p rfl rfl
    rw [hg _ (by omega), hg _ (by omega), hl]
    simp only [Frame.record, Frame.slice_eq, List.drop_drop, arpTrunc, anyNonZero]
    set a := (f.byte (o+4)).toNat
    set b := (f.byte (o+5)).toNat
    have e1 : 8 + a + b + a + b = 8 + 2*a + 2*b := by ring
    have e2 : 8 + a + b + a = 8 + 2*a + b := by ring
    rw [e1, e2]
    simp only [true_and]
    rw [List.take_of_length_le (by simp; omega)]
    congr 1
    rw [Bool.eq_iff_iff]; simp
  · rw [hl]; rfl

end Sys2Proof.Machine
end

