-- ==== Sys2Proof/Tests/Slice0.lean ====
section
/-! SUPPORT. Small tests: expected values are the spec's own (95_test_vectors.md and the examples of the rules); then a witness for
the hypotheses of each statement of the obligations file. -/

namespace Sys2Proof.Tests

open Sys2Proof Sys2Proof.Machine

/-! ## Helpers -/

/-- `me`, `bc`, `other` of 95. -/
def me : List Byte := [0xf0, 0x27, 0x2d, 0x41, 0xcd, 0x83]
def bc : List Byte := [0xff, 0xff, 0xff, 0xff, 0xff, 0xff]
def other : List Byte := [0xaa, 0xbb, 0xcc, 0xdd, 0xee, 0xff]

/-- `ip10`, `ip1`, `ZM`, `ZI` of 95. -/
def ip10 : List Byte := [0xc0, 0xa8, 0x01, 0x0a]
def ip1 : List Byte := [0xc0, 0xa8, 0x01, 0x01]
def zm : List Byte := [0, 0, 0, 0, 0, 0]
def zi : List Byte := [0, 0, 0, 0]

/-- `Z(n)` of 95. -/
def z (n : Nat) : List Byte := List.replicate n 0

/-- `A(ht, pt, h, p, op)` of 95 with `ht` and `pt` as their two bytes. -/
def hdr8 (ht pt : List Byte) (h p : Byte) (op : List Byte) : List Byte := ht ++ pt ++ [h, p] ++ op

/-- Payload V-A1 of 95, the payload of program P1. -/
def va1 : List Byte := hdr8 [0x00, 0x01] [0x08, 0x00] 6 4 [0x00, 0x01] ++ me ++ ip10 ++ zm ++ ip10

/-- Program P1 of 95. -/
def p1 : List Byte := bc ++ me ++ [0x08, 0x06] ++ va1

/-- Program P2 of 95. -/
def p2 : List Byte :=
  me ++ other ++ [0x81, 0x00, 0x00, 0x64, 0x08, 0x06] ++ hdr8 [0x00, 0x01] [0x08, 0x00] 6 4 [0x00, 0x02] ++
    other ++ ip1 ++ me ++ ip10 ++ z 17 ++ [0x01]

/-- Program P4 of 95. -/
def p4 : List Byte := bc ++ me ++ [0x00, 0x2e, 0xaa, 0xaa, 0x03] ++ z 7

/-- Program P7b of 95: tagged, exactly 18 bytes, EtherType ARP. -/
def p7b : List Byte := bc ++ me ++ [0x81, 0x00, 0x00, 0x64, 0x08, 0x06]

/-- The state after reset with a frame in the buffer. -/
def withFrame (bytes : List Byte) : State := presentFrame bytes State.reset

/-- One field of the state an outcome answers. -/
def after {α : Type} (o : Out) (f : State → α) : Option α :=
  match o with
  | .next t => some (f t)
  | .fault _ => none
  | .refused _ => none

/-- The state an outcome answers. -/
def stateOf (o : Out) : State :=
  match o with
  | .next t => t
  | .fault _ => State.reset
  | .refused _ => State.reset

/-- The reason of a fault. -/
def faultOf (o : Out) : Option Fault :=
  match o with
  | .next _ => none
  | .fault r => some r
  | .refused _ => none

/-- The reason of a refusal. -/
def refusalOf (o : Out) : Option Refusal :=
  match o with
  | .next _ => none
  | .fault _ => none
  | .refused r => some r

/-- DEMUX on a frame, after reset. -/
def demuxed (bytes : List Byte) : Out := exec .demux (withFrame bytes)

/-- ARP_DECODE alone, after reset. -/
def arped (payload : List Byte) : Out := exec (.arpDecode .whole) (withFrame payload)

/-- FrameDecoder running on a frame, its first `n` steps done. -/
def fdAfter (n : Nat) (bytes : List Byte) : Out :=
  stepsFor (n + 1) ((withFrame bytes).setPending (frameStepwise.take (n + 1)))

/-- ArpDecoder running alone on a payload, its first `n` steps done. -/
def adAfter (n : Nat) (payload : List Byte) : Out :=
  stepsFor (n + 1) ((withFrame payload).setPending ((arpStepwise .arpWhole).take (n + 1)))

/-- What an instruction answers on the record of a payload. -/
def onRecord (payload : List Byte) (i : Instr) : Option (Option Value) := after (andThen (arped payload) (exec i)) (·.answer)

/-- What an instruction answers after reset. -/
def answers (i : Instr) : Option (Option Value) := after (exec i State.reset) (·.answer)

/-! ## Decoding: every code point, its word written out from 30 R83 to R87 -/

theorem test_decode_eth12_vlan : decode Config.defaultNames .eth12 [0x81, 0x00] = .ok .cpEth12Vlan := by decide
theorem test_decode_eth12_plain : decode Config.defaultNames .eth12 [0x81, 0x01] = .ok (.cpEth12Plain 0x8101) := by decide
theorem test_decode_etype_arp : decode Config.defaultNames .etype [0x08, 0x06] = .ok .cpEtypeArp := by decide
theorem test_decode_etype_length : decode Config.defaultNames .etype [0x05, 0xdc] = .ok (.cpEtypeLength 1500) := by decide
theorem test_decode_etype_other : decode Config.defaultNames .etype [0x05, 0xdd] = .ok (.cpEtypeOther 1501) := by decide
theorem test_decode_htype_ethernet : decode Config.defaultNames .arpHtype [0x00, 0x01] = .ok .cpHtypeEthernet := by decide
theorem test_decode_htype_other : decode Config.defaultNames .arpHtype [0x01, 0x00] = .ok (.cpHtypeOther 256) := by decide
theorem test_decode_ptype_ipv4 : decode Config.defaultNames .arpPtype [0x08, 0x00] = .ok .cpPtypeIpv4 := by decide
theorem test_decode_ptype_arp : decode Config.defaultNames .arpPtype [0x08, 0x06] = .ok .cpPtypeArp := by decide
theorem test_decode_ptype_other : decode Config.defaultNames .arpPtype [0x00, 0x08] = .ok (.cpPtypeOther 0x0008) := by decide
theorem test_decode_oper_request : decode Config.defaultNames .arpOper [0x00, 0x01] = .ok .cpOperRequest := by decide
theorem test_decode_oper_reply : decode Config.defaultNames .arpOper [0x00, 0x02] = .ok .cpOperReply := by decide
theorem test_decode_oper_other : decode Config.defaultNames .arpOper [0x01, 0x00] = .ok (.cpOperOther 256) := by decide

/-- Too few bytes, and a key that an implementer added to the table, are rejected by name. -/
theorem test_decode_rejects :
    decode Config.defaultNames .etype [0x08] = .error (.truncated .etype) ∧
    decode (Config.defaultNames ++ [(0x86dd, .other 0)]) .arpPtype [0x86, 0xdd] = .error (.noRow .arpPtype 0x86dd) := by decide

/-- Rows of `kind` step are selected by no bits (30 R88). -/
theorem test_steps_have_no_encoding : [Instr.demux, .demuxSel, .frameDecode, .fdLenchk, .fdMacdst, .fdMacsrc, .fdVlanpeek,
    .fdVlanchk, .fdVlantag, .fdEtype, .fdPayload, .fdLenwarn, .macFmt (.reg .macDest), .arpDecode .payload, .adLenchk, .adHdrchk,
    .adHtype, .adPtype, .adHlen, .adPlen, .adOper, .adSha, .adSpa, .adTha, .adTpa, .adTrunc, .adTrail, .avHwname, .avPtname,
    .hexjoin (.reg .macDest), .dotted (.reg .senderProtoAddr), .avSpaStr, .avTpaStr, .avShaStr, .avThaStr,
    .avOpclass].all (fun i => encode i == none && i.isCodePoint == false) = true := by decide

theorem test_table_words :
    decodeTableWord 16 0x8100 = some .cpEth12Vlan ∧ decodeTableWord 16 0x0806 = some .cpEtypeArp ∧
    decodeTableWord 16 0x0001 = some .cpHtypeEthernet ∧ decodeTableWord 16 0x0800 = some .cpPtypeIpv4 ∧
    decodeTableWord 16 0x0002 = some .cpOperReply ∧ decodeTableWord 16 0x0000 = some (.cpEth12Plain 0) ∧
    decodeTableWord 0 0 = none := by decide

/-- `withFetchWord` makes the next step run the word's instruction. -/
theorem test_fetch_word :
    after (step (State.reset.withFetchWord 16 0x8100)) (fun t => (t.hdr.vlanPresent, t.hdr.hdrLen)) = some (some true, some 18) ∧
    after (step (State.reset.withFetchWord 16 0x0806)) (·.arpStatus) = some .ok ∧
    after (step (State.reset.withFetchWord 16 0x0001)) (·.answer) = some (some (.naming (.named .ethernet) .hexJoined)) ∧
    after (step (State.reset.withFetchWord 16 0x0800)) (·.answer) = some (some (.naming (.named .ipv4) .dottedIfFour)) ∧
    after (step (State.reset.withFetchWord 16 0x0002)) (·.answer) =
      some (some (.opcode .reply [.announcement, .gratuitous, .reply])) ∧
    after (step (State.reset.withFetchWord 16 0x0000)) (fun t => (t.hdr.vlanPresent, t.hdr.etherType)) =
      some (some false, some 0) := by decide

/-! ## WellFormed: an ill-formed term for each check -/

theorem test_wf_eth12_plain : (Instr.cpEth12Plain 0x8100).wf Config.defaultNames = false := by decide
theorem test_wf_etype_length : (Instr.cpEtypeLength 1501).wf Config.defaultNames = false := by decide
theorem test_wf_etype_other : (Instr.cpEtypeOther 1500).wf Config.defaultNames = false ∧
    (Instr.cpEtypeOther 0x0806).wf Config.defaultNames = false := by decide
theorem test_wf_htype_other : (Instr.cpHtypeOther 1).wf Config.defaultNames = false := by decide
theorem test_wf_ptype_other : (Instr.cpPtypeOther 0x0800).wf Config.defaultNames = false ∧
    (Instr.cpPtypeOther 0x0806).wf Config.defaultNames = false := by decide
theorem test_wf_oper_other : (Instr.cpOperOther 1).wf Config.defaultNames = false ∧
    (Instr.cpOperOther 2).wf Config.defaultNames = false := by decide
theorem test_wf_mac_fmt : (Instr.macFmt (.lit ip10)).wf Config.defaultNames = false := by decide
theorem test_wf_dotted : (Instr.dotted (.lit [0xc0, 0xa8, 0x01])).wf Config.defaultNames = false := by decide
theorem test_wf_frame : FrameFields.wf ⟨⟨0, 0, 0, 0, 0, 0⟩, ⟨0, 0, 0, 0, 0, 0⟩, none, 0x8100, [0]⟩ = false ∧
    FrameFields.wf ⟨⟨0, 0, 0, 0, 0, 0⟩, ⟨0, 0, 0, 0, 0, 0⟩, none, 0x0800, []⟩ = false := by decide
theorem test_wf_arp : ArpFields.wf ⟨1, 0x0800, 1, me, ip10, ip10, ip10, []⟩ = false ∧
    ArpFields.wf ⟨1, 0x0800, 1, me, ip10, me, me, []⟩ = false := by decide

/-- A code point may not be asked for by name, and an ill-formed term not at all. -/
theorem test_requests_refused :
    refusalOf (step (State.reset.setPending [.run .cpEtypeArp])) = some .notRequestable ∧
    refusalOf (step (State.reset.setPending [.run (.dotted (.lit []))])) = some .notRequestable := by decide

/-! ## DEMUX, DEMUX.SEL, FRAME_DECODE -/

theorem test_demux_p1 : after (demuxed p1) (fun t => (t.frameStatus, t.arpStatus, t.arp.senderProtoAddr, t.arp.arpConsumed)) =
    some (.ok, .ok, some ip10, some 28) := by decide
theorem test_demux_p2 : after (demuxed p2) (fun t => (t.hdr.vlanTag, t.hdr.payloadLen, t.arp.trailLen, t.arp.wArpTrailing)) =
    some (some 0x81000064, some 46, some 18, some true) := by decide
theorem test_demux_p7b : after (demuxed p7b) (fun t => (t.frameStatus, t.arpStatus, t.hdr.payloadLen, t.arp)) =
    some (.ok, .tooShort, some 0, ArpRecord.invalid) := by decide
theorem test_demux_sel : after (andThen (demuxed p1) (exec .demuxSel)) (·.answer) = some (some (.bit true)) ∧
    after (andThen (demuxed p4) (exec .demuxSel)) (·.answer) = some (some (.bit false)) := by decide
theorem test_frame_decode_f5 : after (exec .frameDecode (withFrame (bc ++ me ++ [0x00, 0x81] ++ z 4)))
    (fun t => (t.hdr.vlanPresent, t.hdr.etherType, t.hdr.hdrLen, t.hdr.payloadLen, t.hdr.wLenMismatch)) =
    some (some false, some 0x0081, some 14, some 4, some true) := by decide
theorem test_frame_decode_f13 :
    after (exec .frameDecode (withFrame (bc ++ me ++ [0x81, 0x00, 0xff, 0xff, 0x81, 0x00] ++ z 4)))
      (fun t => (t.hdr.vlanTag, t.hdr.etherType, t.hdr.payloadLen)) = some (some 0x8100ffff, some 0x8100, some 4) := by decide

/-! ## FrameDecoder's steps -/

theorem test_fd_lenchk_f2 : after (fdAfter 1 (bc ++ me ++ [0x08, 0x06])) (fun t => (t.frameStatus, t.cursor)) =
    some (.tooShort, none) := by decide
theorem test_fd_lenchk_f3 : after (fdAfter 1 (bc ++ me ++ [0x08, 0x06, 0x00])) (fun t => (t.frameStatus, t.cursor)) =
    some (.none, some ⟨.frame, 0, 1⟩) := by decide
theorem test_fd_macdst : after (fdAfter 2 p1) (fun t => (t.hdr.macDest.map Mac.toList, t.cursor)) =
    some (some bc, some ⟨.frame, 6, 2⟩) := by decide
theorem test_fd_macsrc : after (fdAfter 3 p1) (fun t => (t.hdr.macSrc.map Mac.toList, t.cursor)) =
    some (some me, some ⟨.frame, 12, 3⟩) := by decide
theorem test_fd_vlanpeek : after (fdAfter 4 p2) (fun t => (t.hdr.vlanPresent, t.cursor)) =
    some (some true, some ⟨.frame, 12, 4⟩) := by decide
theorem test_fd_vlanchk_f11 : after (fdAfter 5 (bc ++ me ++ [0x81, 0x00, 0x00, 0x64, 0x08])) (·.frameStatus) =
    some .tooShort := by decide
theorem test_fd_vlanchk_f12 : after (fdAfter 5 (bc ++ me ++ [0x81, 0x00, 0x00, 0x64, 0x08, 0x00])) (·.frameStatus) =
    some .none := by decide
theorem test_fd_vlantag : after (fdAfter 6 p2) (fun t => (t.hdr.vlanTag, t.cursor)) =
    some (some 0x81000064, some ⟨.frame, 16, 6⟩) := by decide
theorem test_fd_vlantag_skipped : after (fdAfter 6 p1) (fun t => (t.hdr.vlanTag, t.cursor)) =
    some (none, some ⟨.frame, 12, 6⟩) := by decide
theorem test_fd_etype : after (fdAfter 7 p2) (fun t => (t.hdr.etherType, t.cursor)) =
    some (some 0x0806, some ⟨.frame, 18, 7⟩) := by decide
theorem test_fd_payload : after (fdAfter 8 p2) (fun t => (t.hdr.hdrLen, t.hdr.payloadOff, t.hdr.payloadLen)) =
    some (some 18, some 18, some 46) := by decide
theorem test_fd_lenwarn_p4 : after (fdAfter 9 p4) (·.hdr.wLenMismatch) = some (some true) := by decide
/-- F18 to F21: the boundaries of the length-framing check. -/
theorem test_fd_lenwarn_boundaries : lenMismatch 0x05dc 1499 = true ∧ lenMismatch 0x05dc 1500 = false ∧
    lenMismatch 0x05dc 1501 = false ∧ lenMismatch 0x05dd 1 = false := by decide
theorem test_mac_fmt_m5 : answers (.macFmt (.lit [0x00, 0x01, 0x0a, 0x10, 0xa0, 0xff])) =
    some (some (.text "00:01:0a:10:a0:ff".toList)) := by decide
theorem test_mac_fmt_reg : after (andThen (demuxed p1) (exec (.macFmt (.reg .macSrc)))) (·.answer) =
    some (some (.text "f0:27:2d:41:cd:83".toList)) := by decide

/-! ## ArpDecoder -/

/-- V-A14: `W_ARP_TRUNC` only. -/
theorem test_arp_decode_va14 : after (arped (hdr8 [0x00, 0x01] [0x86, 0xdd] 6 16 [0x00, 0x01] ++ me ++ z 26))
    (fun t => (t.arp.targetProtoAddr, t.arp.arpConsumed, t.arp.wArpUnderlen, t.arp.wArpTrailing, t.arp.wArpTrunc)) =
    some (some zi, some 52, some false, some false, some true) := by decide
/-- V-A9: below the fixed header. -/
theorem test_arp_decode_va9 : after (arped (va1.take 7)) (fun t => (t.frameStatus, t.arpStatus, t.arp)) =
    some (.none, .tooShort, ArpRecord.invalid) := by decide
theorem test_ad_lenchk : after (adAfter 1 (va1.take 27)) (·.arp.wArpUnderlen) = some (some true) ∧
    after (adAfter 1 va1) (·.arp.wArpUnderlen) = some (some false) := by decide
theorem test_ad_hdrchk : after (adAfter 2 (va1.take 7)) (·.arpStatus) = some .tooShort ∧
    after (adAfter 2 (va1.take 8)) (·.arpStatus) = some .notRun := by decide
/-- V-A17: type bytes swapped. -/
theorem test_ad_htype : after (adAfter 3 (hdr8 [0x01, 0x00] [0x00, 0x08] 6 4 [0x00, 0x02]))
    (fun t => (t.arp.hardwareType, t.cursor)) = some (some 256, some ⟨.arp, 2, 3⟩) := by decide
theorem test_ad_ptype : after (adAfter 4 (hdr8 [0x01, 0x00] [0x00, 0x08] 6 4 [0x00, 0x02]))
    (fun t => (t.arp.protocolType, t.cursor)) = some (some 8, some ⟨.arp, 4, 4⟩) := by decide
theorem test_ad_hlen : after (adAfter 5 va1) (fun t => (t.arp.hardwareLen, t.cursor)) = some (some 6, some ⟨.arp, 5, 5⟩) := by decide
theorem test_ad_plen : after (adAfter 6 va1) (fun t => (t.arp.protocolLen, t.cursor)) = some (some 4, some ⟨.arp, 6, 6⟩) := by decide
theorem test_ad_oper : after (adAfter 7 (hdr8 [0x00, 0x01] [0x08, 0x00] 6 4 [0x01, 0x00]))
    (fun t => (t.arp.operation, t.cursor)) = some (some 256, some ⟨.arp, 8, 7⟩) := by decide
/-- V-A15: odd offsets 8, 9, 12, 13. -/
def va15 : List Byte :=
  hdr8 [0x00, 0x07] [0x12, 0x34] 1 3 [0x00, 0x03] ++ [0x11, 0x22, 0x33, 0x44, 0x55, 0x66, 0x77, 0x88]
theorem test_ad_sha : after (adAfter 8 va15) (fun t => (t.arp.senderHwAddr, t.cursor)) = some (some [0x11], some ⟨.arp, 9, 8⟩) := by decide
theorem test_ad_spa : after (adAfter 9 va15) (fun t => (t.arp.senderProtoAddr, t.cursor)) =
    some (some [0x22, 0x33, 0x44], some ⟨.arp, 12, 9⟩) := by decide
theorem test_ad_tha : after (adAfter 10 va15) (fun t => (t.arp.targetHwAddr, t.cursor)) =
    some (some [0x55], some ⟨.arp, 13, 10⟩) := by decide
theorem test_ad_tpa : after (adAfter 11 va15) (fun t => (t.arp.targetProtoAddr, t.arp.arpConsumed, t.cursor)) =
    some (some [0x66, 0x77, 0x88], some 16, some ⟨.arp, 16, 11⟩) := by decide
/-- V-A6: the example of 42 R142. -/
theorem test_ad_tha_clamped : after (adAfter 10 (va1.take 20)) (fun t => (t.arp.targetHwAddr, t.cursor)) =
    some (some [0x00, 0x00], some ⟨.arp, 24, 10⟩) := by decide
theorem test_ad_trunc : after (adAfter 12 (va1.take 27)) (·.arp.wArpTrunc) = some (some true) ∧
    after (adAfter 12 va1) (·.arp.wArpTrunc) = some (some false) := by decide
/-- V-A2 and V-A3. -/
theorem test_ad_trail : after (adAfter 13 (va1 ++ z 18)) (fun t => (t.arp.trailLen, t.arp.wArpTrailing)) =
      some (some 18, some false) ∧
    after (adAfter 13 (va1 ++ z 17 ++ [0x01])) (fun t => (t.arp.trailLen, t.arp.wArpTrailing)) =
      some (some 18, some true) := by decide

/-! ## Views and helpers -/

theorem test_av_hwname : onRecord va1 .avHwname = some (some (.typeName (.named .ethernet) 1)) ∧
    onRecord va15 .avHwname = some (some (.typeName (.raw 7) 7)) := by decide
theorem test_av_ptname : onRecord va1 .avPtname = some (some (.typeName (.named .ipv4) 0x0800)) ∧
    onRecord va15 .avPtname = some (some (.typeName (.raw 0x1234) 0x1234)) := by decide
theorem test_hexjoin : answers (.hexjoin (.lit [])) = some (some (.text [])) ∧
    answers (.hexjoin (.lit [0x00, 0x0f])) = some (some (.text "00:0f".toList)) := by decide
theorem test_hexjoin_reg : onRecord (va1.take 20) (.hexjoin (.reg .targetHwAddr)) = some (some (.text "00:00".toList)) := by decide
theorem test_dotted : answers (.dotted (.lit [0x64, 0xc8, 0x09, 0x00])) = some (some (.text "100.200.9.0".toList)) ∧
    answers (.dotted (.lit bc)) = none := by decide
theorem test_dotted_reg : onRecord va1 (.dotted (.reg .senderProtoAddr)) = some (some (.text "192.168.1.10".toList)) := by decide
theorem test_av_spa_str : onRecord va1 .avSpaStr = some (some (.rendered (.text "192.168.1.10".toList))) ∧
    onRecord va15 .avSpaStr = some (some (.rendered (.bytes [0x22, 0x33, 0x44]))) := by decide
/-- V11: IPv4 and three bytes. -/
theorem test_av_tpa_str : onRecord (va1.take 27) .avTpaStr = some (some (.rendered (.bytes [0xc0, 0xa8, 0x01]))) ∧
    onRecord va1 .avTpaStr = some (some (.rendered (.text "192.168.1.10".toList))) := by decide
theorem test_av_sha_str : onRecord va1 .avShaStr = some (some (.rendered (.text "f0:27:2d:41:cd:83".toList))) ∧
    onRecord va15 .avShaStr = some (some (.rendered (.bytes [0x11]))) := by decide
/-- V5 and V6: two bytes, and none. -/
theorem test_av_tha_str : onRecord (va1.take 20) .avThaStr = some (some (.rendered (.text "00:00".toList))) ∧
    onRecord (va1.take 18) .avThaStr = some (some (.rendered (.text []))) := by decide
/-- K1, K3, K4, K6, K7, K8, K10, K12c, K13, K14, K20 of 95: the classes from the four addresses and the operation. -/
theorem test_classes : classify 2 me ip10 me ip10 = .announcement ∧ classify 7 [] [] [] [] = .announcement ∧
    classify 1 me ip10 zm ip10 = .gratuitous ∧ classify 1 me zi zm zi = .gratuitous ∧ classify 1 me ip10 zm zi = .probe ∧
    classify 1 me zi zm ip10 = .request ∧ classify 2 other ip1 me ip10 = .reply ∧ classify 256 other ip1 me ip10 = .invalid ∧
    classify 1 [1, 2, 3, 4, 5, 6, 7, 8] ip10 (z 8) ip10 = .request ∧
    classify 1 me (List.replicate 16 1) zm (z 16) = .request ∧ classify 1 me ip10 other ip10 = .request := by decide
theorem test_av_opclass : onRecord va1 .avOpclass = some (some (.opClass .gratuitous)) ∧
    onRecord (va1.take 18) .avOpclass = some (some (.opClass .request)) := by decide

/-! ## Code points -/

/-- FrameDecoder at offset 12 of a frame. -/
def at12 (bytes : List Byte) : State := stateOf (fdAfter 3 bytes)

/-- FrameDecoder has accepted a frame. -/
def accepted (bytes : List Byte) : State := stateOf (exec .frameDecode (withFrame bytes))

theorem test_cp_eth12_vlan : after (exec .cpEth12Vlan (at12 p2)) (fun t => (t.hdr.vlanTag, t.hdr.etherType, t.hdr.payloadLen)) =
    some (some 0x81000064, some 0x0806, some 46) := by decide
theorem test_cp_eth12_vlan_short : after (exec .cpEth12Vlan (at12 (bc ++ me ++ [0x81, 0x00, 0x00, 0x64]))) (·.frameStatus) =
    some .tooShort := by decide
theorem test_cp_eth12_plain : after (exec (.cpEth12Plain 0x0806) (at12 p1))
    (fun t => (t.hdr.vlanPresent, t.hdr.etherType, t.hdr.payloadLen)) = some (some false, some 0x0806, some 28) := by decide
theorem test_cp_etype_arp : after (exec .cpEtypeArp (accepted p1)) (fun t => (t.arpStatus, t.arp.operation)) =
    some (.ok, some 1) := by decide
theorem test_cp_etype_length : after (exec (.cpEtypeLength 46) (stateOf (fdAfter 8 p4)))
    (fun t => (t.frameStatus, t.arpStatus, t.hdr.wLenMismatch)) = some (.ok, .notRun, some true) := by decide
theorem test_cp_etype_other : after (exec (.cpEtypeOther 0x0800) (stateOf (fdAfter 8 (bc ++ me ++ [0x08, 0x00] ++ z 20))))
    (fun t => (t.frameStatus, t.arpStatus, t.hdr.wLenMismatch)) = some (.ok, .notRun, some false) := by decide
theorem test_cp_htype : answers .cpHtypeEthernet = some (some (.naming (.named .ethernet) .hexJoined)) ∧
    answers (.cpHtypeOther 7) = some (some (.naming (.raw 7) .rawBytes)) := by decide
theorem test_cp_ptype : answers .cpPtypeIpv4 = some (some (.naming (.named .ipv4) .dottedIfFour)) ∧
    answers .cpPtypeArp = some (some (.naming (.named .arp) .rawBytes)) ∧
    answers (.cpPtypeOther 0x86dd) = some (some (.naming (.raw 0x86dd) .rawBytes)) := by decide
theorem test_cp_oper : answers .cpOperRequest = some (some (.opcode .request [.announcement, .gratuitous, .probe, .request])) ∧
    answers .cpOperReply = some (some (.opcode .reply [.announcement, .gratuitous, .reply])) ∧
    answers (.cpOperOther 256) = some (some (.opcode .neither [.announcement, .gratuitous, .invalid])) := by decide

/-! ## Reads, reset, sequences -/

/-- Z2 and Z3: reads of an invalid register. -/
theorem test_read_invalid : faultOf (readRegister .etherType State.reset) = some (.invalidRegister .etherType) ∧
    faultOf (readRegister .vlanTag (stateOf (demuxed p1))) = some (.invalidRegister .vlanTag) := by decide
theorem test_read_payload : after (readRegister .payload (stateOf (demuxed p4))) (·.answer) =
    some (some (.bytes ([0xaa, 0xaa, 0x03] ++ z 7))) := by decide
/-- `diag` of P5, of P4 (95: only `diag[0]` is valid), and of V-A3 after ARP_DECODE alone (95 2.6). -/
theorem test_read_diag :
    after (readRegister .diag (stateOf (demuxed (bc ++ me ++ [0x08, 0x06] ++ va1.take 20)))) (·.answer) =
      some (some (.diag ⟨some false, some true, some false, some true⟩)) ∧
    after (readRegister .diag (stateOf (demuxed p4))) (·.answer) = some (some (.diag ⟨some true, none, none, none⟩)) ∧
    after (readRegister .diag (stateOf (arped (va1 ++ z 17 ++ [0x01])))) (·.answer) =
      some (some (.diag ⟨none, some false, some true, some false⟩)) ∧
    faultOf (readRegister .diag (stateOf (demuxed (p1.take 14)))) = some (.invalidRegister .diag) := by decide
theorem test_diag_vector : Diag.vector ⟨some false, some true, some false, some true⟩ = some 0b1010 := by decide

/-- A step that the decoder has not reached, one that it has passed, and a return with FD.LENCHK left out. -/
theorem test_steps_out_of_order : faultOf (exec .fdMacsrc (stateOf (fdAfter 1 p1))) = some (.stepNotReached .frame) ∧
    faultOf (exec .adSha (stateOf (adAfter 8 va1))) = some (.stepNotReached .arp) ∧
    faultOf (stepsFor 2 ((withFrame (p1.take 14)).setPending [.start .frame, .run .fdMacdst])) = some (.stepNotReached .frame) ∧
    faultOf (stepsFor 2 ((withFrame p1).setPending [.start .frame, .ret .frame])) = some (.stepNotReached .frame) := by decide
/-- P11: a failure, then P1, then a reset. -/
theorem test_sequence : after (stepsFor 6 (State.reset.setPending
      [.present (p1.take 14), .run .demux, .present p1, .run .demux, .run .avOpclass, .reset]))
    (fun t => (t.frameStatus, t.arpStatus, t.hdr, t.arp)) = some (.none, .notRun, Header.invalid, ArpRecord.invalid) := by decide

/-! ## Witnesses: states and operands that meet all hypotheses of a statement, at the boundary values of its clauses -/

/-- FrameDecoder running on a frame with its first `n` steps done, as a state. -/
def fdState (n : Nat) (bytes : List Byte) : State := stateOf (fdAfter n bytes)

/-- ArpDecoder running alone on a payload with its first `n` steps done, as a state. -/
def adState (n : Nat) (payload : List Byte) : State := stateOf (adAfter n payload)

/-- DEMUX done on program P1, and ARP_DECODE alone on V-A15. -/
def doneP1 : State := stateOf (demuxed p1)
def doneVa15 : State := stateOf (arped va15)

theorem reset_inv : State.reset.Inv :=
  ⟨by decide, by decide, by decide, by decide, by decide, by decide, by decide, by decide⟩

theorem doneP1_inv : doneP1.Inv :=
  ⟨by decide, by decide, by decide, by decide, by decide, by decide, by decide, by decide⟩

/-- No decoder runs, so no run is out of order. -/
theorem inOrder_of_idle {s : State} (h : s.cursor = none)
    (hp : s.bufferHeld = true → ∀ o n, s.hdr.payloadOff = some o → s.hdr.payloadLen = some n → o + n = s.raw.len) :
    s.InOrder := by
  refine ⟨?_, ?_, ?_, ?_, ?_, ?_, hp⟩
  all_goals intro c n hc
  all_goals first | (rw [h] at hc; cases hc) | (have h2 := hc.2; rw [h] at h2; cases h2)

theorem reset_inOrder : State.reset.InOrder := inOrder_of_idle rfl (by intro h; cases h)

theorem doneP1_inOrder : doneP1.InOrder := by
  refine inOrder_of_idle (by decide) fun _ o n ho hn => ?_
  have h1 : doneP1.hdr.payloadOff = some 14 := by decide
  have h2 : doneP1.hdr.payloadLen = some 28 := by decide
  have h3 : doneP1.raw.len = 42 := by decide
  rw [h1] at ho; rw [h2] at hn; cases ho; cases hn; exact h3.symm

theorem doneP1_hdr : doneP1.hdr = (Frame.ofBytes p1).header := by decide

theorem doneP1_faithful : doneP1.HeaderFaithful := by
  intro _ _
  rw [doneP1_hdr]
  exact Frame.header_matches (Frame.ofBytes p1) (by decide)

/-- Operands at the edges of the rows' predicates. -/
theorem witness_CodePointsDecodeWhatTheyEncode : Config.namesOk Config.defaultNames = true ∧
    [Instr.cpEth12Plain 0xffff, .cpEtypeLength 0, .cpEtypeLength 1500, .cpEtypeOther 1501, .cpHtypeOther 0, .cpPtypeOther 0x0801,
      .cpOperOther 3].all (fun i => i.isCodePoint && i.wf Config.defaultNames) = true := by decide

theorem witness_EveryWindowValueSelectsExactlyOneCodePoint : Config.namesOk Config.defaultNames = true ∧
    be16 0x08 0x07 ∉ Config.defaultNames.map Prod.fst := by decide

/-- A tagged frame without payload and an untagged one with one byte. -/
theorem witness_FrameDecodeRecoversEveryEncodedField :
    FrameFields.wf ⟨⟨1, 2, 3, 4, 5, 6⟩, ⟨7, 8, 9, 10, 11, 12⟩, some 0x0064, 0x8100, []⟩ = true ∧
    FrameFields.wf ⟨⟨1, 2, 3, 4, 5, 6⟩, ⟨7, 8, 9, 10, 11, 12⟩, none, 0x0800, [0]⟩ = true ∧
    (withFrame (encodeFrame ⟨⟨1, 2, 3, 4, 5, 6⟩, ⟨7, 8, 9, 10, 11, 12⟩, none, 0x0800, [0]⟩)).tooLong = false := by decide

theorem witness_ArpDecodeRecoversEveryEncodedField :
    ArpFields.wf ⟨1, 0x0800, 1, [], [], [], [], []⟩ = true ∧ ArpFields.wf ⟨1, 0x0800, 1, me, ip10, zm, ip10, z 17 ++ [1]⟩ = true ∧
    (withFrame (encodeArp ⟨1, 0x0800, 1, me, ip10, zm, ip10, []⟩)).raw = Frame.ofBytes va1 := by decide

/-- The frame of program P1 from its fields, and a tagged frame with trailing bytes. -/
theorem witness_DemuxRecoversAnArpPacketInsideAFrame :
    FrameFields.wf ⟨⟨0xff, 0xff, 0xff, 0xff, 0xff, 0xff⟩, ⟨0xf0, 0x27, 0x2d, 0x41, 0xcd, 0x83⟩, none, 0x0806, va1⟩ = true ∧
    encodeFrame ⟨⟨0xff, 0xff, 0xff, 0xff, 0xff, 0xff⟩, ⟨0xf0, 0x27, 0x2d, 0x41, 0xcd, 0x83⟩, none, 0x0806, va1⟩ = p1 ∧
    encodeArp ⟨1, 0x0800, 1, me, ip10, zm, ip10, []⟩ = va1 ∧ (withFrame p1).tooLong = false ∧
    FrameFields.wf ⟨⟨1, 2, 3, 4, 5, 6⟩, ⟨7, 8, 9, 10, 11, 12⟩, some 0x0064, 0x0806, va1 ++ [1]⟩ = true ∧
    encodeArp ⟨1, 0x0800, 1, me, ip10, zm, ip10, [1]⟩ = va1 ++ [1] := by decide

/-- A request by name, and each of the five windows with a value that decodes. -/
theorem witness_StepRunsTheRequestedOrDecodedInstruction :
    (Instr.demux.isCodePoint = false ∧ Instr.demux.wf State.reset.cfg.etypeNames = true) ∧
    (fdState 3 p2).WindowHolds .eth12 0x8100 ∧ (fdState 8 p2).WindowHolds .etype 0x0806 ∧
    doneP1.WindowHolds .etype 0x0806 ∧ doneP1.WindowHolds .arpHtype 1 ∧
    doneP1.WindowHolds .arpPtype 0x0800 ∧ doneP1.WindowHolds .arpOper 1 :=
  ⟨by decide, ⟨⟨12, by decide, by decide⟩, by decide, by decide⟩, ⟨.inl ⟨18, by decide, by decide⟩, by decide⟩,
    ⟨.inr ⟨by decide, by decide⟩, by decide⟩, ⟨by decide, by decide⟩, ⟨by decide, by decide⟩, ⟨by decide, by decide⟩⟩

theorem witness_IdlePresentAndResetSteps : State.reset.pending = [] ∧
    (State.reset.setPending [.present p1]).pending = [.present p1] ∧ (doneP1.setPending [.reset]).pending = [.reset] := by decide

theorem witness_StepKeepsTheValidityInvariant : doneP1.Inv ∧ doneP1.InOrder ∧ after (step doneP1) (·.frameStatus) = some .ok :=
  ⟨doneP1_inv, doneP1_inOrder, by decide⟩

/-- FrameDecoder at the peek of P2, and the same with its next step asked for. -/
def peekP2 : State := (fdState 3 p2).setPending [.run .fdVlanpeek]

theorem peekP2_inOrder : peekP2.InOrder := by
  have hc : peekP2.cursor = some ⟨.frame, 12, 3⟩ := by decide
  have hl : 18 ≤ peekP2.raw.len := by decide
  have hp : peekP2.hdr.payloadOff = none := by decide
  refine ⟨?_, ?_, ?_, ?_, ?_, ?_, ?_⟩
  · intro c n h; rw [hc] at h; cases h; decide
  · intro c n h; rw [hc] at h; cases h
    exact ⟨by decide, by decide, by decide, by decide, by decide, by decide, by decide⟩
  · intro c n h
    exact ⟨fun _ => by omega, fun _ _ => hl⟩
  · intro c n h; rw [hc] at h; cases h
  · intro c n h; rw [hc] at h; cases h
  · intro c n h; have h2 := h.2; rw [hc] at h2; cases h2
  · intro _ o n h; rw [hp] at h; cases h

/-- A run in progress whose next step goes on. -/
theorem witness_StepKeepsEveryRunInOrder : peekP2.InOrder ∧ after (step peekP2) (·.cursor) = some (some ⟨.frame, 12, 4⟩) :=
  ⟨peekP2_inOrder, by decide⟩

theorem witness_ReadsPastTheEndNeverHappen : peekP2.InOrder := peekP2_inOrder

theorem witness_StepKeepsTheHeaderFaithfulToTheFrame : doneP1.Inv ∧ doneP1.HeaderFaithful ∧ doneP1.bufferHeld = true ∧
    after (step doneP1) (·.frameStatus) = some .ok :=
  ⟨doneP1_inv, doneP1_faithful, by decide, by decide⟩

/-- A valid register, an invalid one, both views; `diag` without an ArpRecord (P4), without a header (V-A15 alone), without either; and a
changed buffer. -/
theorem witness_ReadsFollowTheValidityTable : doneP1.Inv ∧ doneP1.cursor = none ∧ doneP1.bufferHeld = true ∧
    [Reg.etherType, .vlanTag, .payload, .trailing, .diag, .operation].map
      (validTable doneP1.frameStatus doneP1.arpStatus (doneP1.hdr.vlanPresent == some true)) = [true, false, true, true, true, true] ∧
    ((stateOf (demuxed p4)).cursor = none ∧ validTable (stateOf (demuxed p4)).frameStatus (stateOf (demuxed p4)).arpStatus false .diag = true ∧
      validTable (stateOf (demuxed p4)).frameStatus (stateOf (demuxed p4)).arpStatus false .operation = false) ∧
    validTable doneVa15.frameStatus doneVa15.arpStatus false .diag = true ∧
    validTable State.reset.frameStatus State.reset.arpStatus false .diag = false ∧
    ((presentFrame p2 doneP1).Inv ∧ (presentFrame p2 doneP1).cursor = none ∧ (presentFrame p2 doneP1).bufferHeld = false) :=
  ⟨doneP1_inv, by decide, by decide, by decide, by decide, by decide, by decide,
    ⟨by decide, by decide, by decide, by decide, by decide, by decide, by decide, by decide⟩, by decide, by decide⟩

/-- 14 and 15 bytes; 17 and 18 bytes of a tagged frame; a payload of 7 and of 8 bytes. -/
theorem witness_DemuxCompletesWithTheStatusPairOfTheFrame :
    [p1.take 14, p1.take 15, p2.take 17, p2.take 18, p1.take 21, p1.take 22, p4].map
      (fun f => ((withFrame f).tooLong, after (demuxed f) (fun t => (t.frameStatus, t.arpStatus)))) =
    [(false, some (.tooShort, .notRun)), (false, some (.ok, .tooShort)), (false, some (.tooShort, .notRun)),
     (false, some (.ok, .tooShort)), (false, some (.ok, .tooShort)), (false, some (.ok, .ok)), (false, some (.ok, .notRun))] := by
  decide

theorem witness_FrameDecodeCompletesWithTheHeaderOfTheFrame :
    [p1.take 14, p1.take 15, p2.take 17, p2.take 18].map (fun f => ((withFrame f).tooLong, (accepted f).frameStatus)) =
    [(false, .tooShort), (false, .ok), (false, .tooShort), (false, .ok)] := by decide

theorem witness_ArpDecodeAloneCompletesWithTheRecordOfTheBuffer :
    (withFrame (va1.take 7)).raw.len < 8 ∧ 8 ≤ (withFrame (va1.take 8)).raw.len := by decide

/-- The accepted frame of P1, and of its first 21 bytes, a payload of 7. -/
theorem witness_ArpDecodeOfAPayloadCompletesAndKeepsTheHeader :
    (accepted p1).frameStatus = .ok ∧ (accepted p1).bufferHeld = true ∧ (accepted p1).hdr.payloadOff = some 14 ∧
    (accepted p1).hdr.payloadLen = some 28 ∧ 14 + 28 = (accepted p1).raw.len ∧
    (accepted (p1.take 21)).hdr.payloadLen = some 7 ∧ 14 + 7 = (accepted (p1.take 21)).raw.len := by decide

/-- P11: the same frame after a failure and after a success. -/
theorem witness_DemuxDependsOnTheFrameOnly :
    (withFrame p1).raw = (presentFrame p1 (stateOf (demuxed (p1.take 14)))).raw ∧
    (withFrame p1).cfg.maxFrameBytes = (presentFrame p1 (stateOf (demuxed (p1.take 14)))).cfg.maxFrameBytes ∧ (demuxed p1 |> refusalOf) = none := by decide

/-- Two IPv4 frames that differ in every payload byte. -/
theorem witness_PayloadBytesOfAFrameThatIsNotArpAreNotRead :
    (withFrame (p4 ++ [0x01])).cfg.maxFrameBytes = (withFrame (p4 ++ [0x02])).cfg.maxFrameBytes ∧
    (withFrame (p4 ++ [0x01])).raw.len = (withFrame (p4 ++ [0x02])).raw.len ∧
    (∀ a, a < 14 → (withFrame (p4 ++ [0x01])).raw.byte a = (withFrame (p4 ++ [0x02])).raw.byte a) ∧
    be16At (withFrame (p4 ++ [0x01])).raw.bytes 12 ≠ 0x8100 ∧
    after (demuxed (p4 ++ [0x01])) (·.hdr.etherType) = some (some 0x002e) := by decide

/-- The bound of 00 R9: a frame one byte over it, and the frame at it starts. -/
theorem witness_FramesOverTheBoundAreRefused :
    refusalOf (exec .demux { withFrame p1 with cfg := { Config.default with maxFrameBytes := some 41 } }) = some .frameTooLong ∧
    refusalOf (exec .demux { withFrame p1 with cfg := { Config.default with maxFrameBytes := some 42 } }) = none := by decide

theorem witness_OnlyTheCallerWritesTheFrame : after (demuxed p1) (·.raw.len) = some 42 ∧
    after (step ((withFrame p1).setPending [.run .demux])) (·.raw.len) = some 42 := by decide

theorem witness_FdLengthChecksFailExactlyOnFramesTooShort :
    ((fdState 0 (p1.take 14)).FrameAt 0 0 ∧ (fdState 0 (p1.take 14)).raw.bytes.length < 15) ∧
    ((fdState 0 (p1.take 15)).FrameAt 0 0 ∧ 15 ≤ (fdState 0 (p1.take 15)).raw.bytes.length) ∧
    ((fdState 4 (p2.take 17)).FrameAt 4 12 ∧ (fdState 4 (p2.take 17)).hdr.vlanPresent = some true ∧
      (fdState 4 (p2.take 17)).raw.bytes.length < 18) ∧
    ((fdState 4 (p2.take 18)).FrameAt 4 12 ∧ 18 ≤ (fdState 4 (p2.take 18)).raw.bytes.length) ∧
    ((fdState 4 (p1.take 15)).FrameAt 4 12 ∧ (fdState 4 (p1.take 15)).hdr.vlanPresent = some false) :=
  ⟨⟨⟨by decide, by decide⟩, by decide⟩, ⟨⟨by decide, by decide⟩, by decide⟩, ⟨⟨by decide, by decide⟩, by decide, by decide⟩,
    ⟨⟨by decide, by decide⟩, by decide⟩, ⟨by decide, by decide⟩, by decide⟩

theorem witness_FdMacStepsStoreTheAddressBytes :
    ((fdState 1 (p1.take 15)).FrameAt 1 0 ∧ 6 ≤ (fdState 1 (p1.take 15)).raw.len) ∧
    ((fdState 2 (p1.take 15)).FrameAt 2 6 ∧ 12 ≤ (fdState 2 (p1.take 15)).raw.len) :=
  ⟨⟨⟨by decide, by decide⟩, by decide⟩, ⟨by decide, by decide⟩, by decide⟩

theorem witness_FdVlanpeekTestsTheMarkerExactly : (fdState 3 p2).FrameAt 3 12 ∧ 14 ≤ (fdState 3 p2).raw.len :=
  ⟨⟨by decide, by decide⟩, by decide⟩

theorem witness_FdVlantagStoresTheTagOfATaggedFrame :
    ((fdState 5 (p2.take 18)).FrameAt 5 12 ∧ (fdState 5 (p2.take 18)).hdr.vlanPresent = some true ∧
      16 ≤ (fdState 5 (p2.take 18)).raw.len) ∧
    ((fdState 5 p1).FrameAt 5 12 ∧ (fdState 5 p1).hdr.vlanPresent = some false) :=
  ⟨⟨⟨by decide, by decide⟩, by decide, by decide⟩, ⟨by decide, by decide⟩, by decide⟩

theorem witness_FdEtypeReadsAtTheFormatsOffset :
    ((fdState 6 (p2.take 18)).FrameAt 6 16 ∧ (fdState 6 (p2.take 18)).hdr.vlanPresent = some true ∧
      18 ≤ (fdState 6 (p2.take 18)).raw.len) ∧
    ((fdState 6 (p1.take 15)).FrameAt 6 12 ∧ (fdState 6 (p1.take 15)).hdr.vlanPresent = some false ∧
      14 ≤ (fdState 6 (p1.take 15)).raw.len) :=
  ⟨⟨⟨by decide, by decide⟩, by decide, by decide⟩, ⟨by decide, by decide⟩, by decide, by decide⟩

theorem witness_FdPayloadDelimitsTheRestOfTheFrame :
    ((fdState 7 (p2.take 18)).FrameAt 7 18 ∧ (fdState 7 (p2.take 18)).hdr.vlanPresent = some true ∧
      18 ≤ (fdState 7 (p2.take 18)).raw.len) ∧
    ((fdState 7 (p1.take 15)).FrameAt 7 14 ∧ (fdState 7 (p1.take 15)).hdr.vlanPresent = some false ∧
      14 ≤ (fdState 7 (p1.take 15)).raw.len) :=
  ⟨⟨⟨by decide, by decide⟩, by decide, by decide⟩, ⟨by decide, by decide⟩, by decide, by decide⟩

theorem witness_FdLenwarnFlagsAShorterPayloadOnly : (fdState 8 p4).FrameAt 8 14 ∧ (fdState 8 p4).hdr.etherType = some 46 ∧
    (fdState 8 p4).hdr.payloadLen = some 10 :=
  ⟨⟨by decide, by decide⟩, by decide, by decide⟩

/-- 27 and 28 bytes for the flag, 7 and 8 for the failure. -/
theorem witness_AdLengthChecksFlagBelow28AndFailBelow8 :
    [27, 28].map (fun n => ((adState 0 (va1.take n)).cursor, (adState 0 (va1.take n)).bufferHeld,
      (adState 0 (va1.take n)).arpInput.length, (adState 0 (va1.take n)).arpView, (adState 0 (va1.take n)).raw.len)) =
      [(some ⟨.arp, 0, 0⟩, true, 27, (0, 27), 27), (some ⟨.arp, 0, 0⟩, true, 28, (0, 28), 28)] ∧
    [7, 8].map (fun n => ((adState 1 (va1.take n)).cursor, (adState 1 (va1.take n)).bufferHeld,
      (adState 1 (va1.take n)).arpInput.length, (adState 1 (va1.take n)).arpView, (adState 1 (va1.take n)).raw.len)) =
      [(some ⟨.arp, 0, 1⟩, true, 7, (0, 7), 7), (some ⟨.arp, 0, 1⟩, true, 8, (0, 8), 8)] := ⟨by decide, by decide⟩

/-- The five steps at their places, on a payload of 8 bytes. -/
theorem witness_AdFixedHeaderStepsReadTheirBytes :
    [2, 3, 4, 5, 6].map (fun n => ((adState n (va1.take 8)).cursor, (adState n (va1.take 8)).bufferHeld,
      (adState n (va1.take 8)).arpInput.length, (adState n (va1.take 8)).arpView)) =
      [(some ⟨.arp, 0, 2⟩, true, 8, (0, 8)), (some ⟨.arp, 2, 3⟩, true, 8, (0, 8)), (some ⟨.arp, 4, 4⟩, true, 8, (0, 8)),
       (some ⟨.arp, 5, 5⟩, true, 8, (0, 8)), (some ⟨.arp, 6, 6⟩, true, 8, (0, 8))] := by decide

/-- The four steps at their places on the whole packet, and one that ends inside the field. -/
theorem witness_AdAddressStepsSliceAtTheCursor :
    [7, 8, 9, 10].map (fun n => ((adState n va1).cursor, (adState n va1).bufferHeld, (adState n va1).arpView,
      (adState n va1).raw.len)) =
      [(some ⟨.arp, 8, 7⟩, true, (0, 28), 28), (some ⟨.arp, 14, 8⟩, true, (0, 28), 28),
       (some ⟨.arp, 18, 9⟩, true, (0, 28), 28), (some ⟨.arp, 24, 10⟩, true, (0, 28), 28)] ∧
    ((adState 7 va1).arp.hardwareLen = some 6 ∧ (adState 7 va1).arp.protocolLen = some 4) ∧
    ((adState 10 (va1.take 20)).ArpAt 10 24 ∧ (adState 10 (va1.take 20)).arpInput.length = 20) :=
  ⟨by decide, by decide, ⟨by decide, by decide⟩, by decide⟩

theorem witness_AdTruncAndTrailJudgeTheEndOfThePayload :
    ((adState 11 va1).ArpAt 11 28 ∧ (adState 11 va1).arpView.1 + (adState 11 va1).arpView.2 = (adState 11 va1).raw.len ∧
      (adState 11 va1).arp.arpConsumed = some 28) ∧
    ((adState 12 va1).ArpAt 12 28 ∧ (adState 12 va1).arp.arpConsumed = some 28) ∧
    ((adState 11 (va1.take 27)).arpInput.length < 28 ∧ (adState 12 (va1 ++ [1])).arpInput.getD 28 0#8 = 1) :=
  ⟨⟨⟨by decide, by decide⟩, by decide, by decide⟩, ⟨⟨by decide, by decide⟩, by decide⟩, by decide, by decide⟩

theorem witness_Eth12CodePointsSelectTheHeaderFormat :
    ((fdState 3 (p2.take 18)).Inv ∧ (fdState 3 (p2.take 18)).FrameAt 3 12 ∧ 18 ≤ (fdState 3 (p2.take 18)).raw.len) ∧
    ((fdState 3 (p2.take 17)).FrameAt 3 12 ∧ (fdState 3 (p2.take 17)).raw.len < 18) :=
  ⟨⟨⟨by decide, by decide, by decide, by decide, by decide, by decide, by decide, by decide⟩, ⟨by decide, by decide⟩, by decide⟩,
    ⟨by decide, by decide⟩, by decide⟩

/-- At FD.LENWARN of P4, whose payload has 10 bytes, and of P1's first 21 bytes, whose payload has 7; after the return; the
boundary values of the three rows. -/
theorem witness_EtypeCodePointsDecideWhatThePayloadIs :
    ((fdState 8 p4).FrameAt 8 14 ∧ (fdState 8 p4).hdr.payloadOff = some 14 ∧ (fdState 8 p4).hdr.payloadLen = some 10 ∧
      14 + 10 = (fdState 8 p4).raw.len) ∧
    ((fdState 8 (p1.take 21)).FrameAt 8 14 ∧ (fdState 8 (p1.take 21)).hdr.payloadLen = some 7) ∧
    ((accepted p4).cursor = none ∧ (accepted p4).frameStatus = .ok ∧ (accepted p4).bufferHeld = true ∧
      (accepted p4).hdr.etherType = some 46) ∧
    ((1500 : Half).toNat ≤ 1500 ∧ 1500 < (1501 : Half).toNat ∧ (1501 : Half) ≠ 0x0806) :=
  ⟨⟨⟨by decide, by decide⟩, by decide, by decide, by decide⟩, ⟨⟨by decide, by decide⟩, by decide⟩, by decide, by decide⟩

theorem witness_ArpCodePointsDecideNamesAndClasses : Config.namesOk State.reset.cfg.etypeNames = true ∧
    (0x86dd : Half) ∉ State.reset.cfg.etypeNames.map Prod.fst ∧ (0 : Half) ≠ 1 ∧ (3 : Half) ≠ 1 ∧ (3 : Half) ≠ 2 := by decide

theorem witness_TypeNameViewsAgreeWithTheirCodePoints : Config.namesOk doneP1.cfg.etypeNames = true ∧ doneP1.arpStatus = .ok ∧
    doneP1.arp.hardwareType = some 1 ∧ doneP1.arp.protocolType = some 0x0800 ∧
    decode doneP1.cfg.etypeNames .arpHtype (halfBytes 1) = .ok .cpHtypeEthernet ∧
    decode doneP1.cfg.etypeNames .arpPtype (halfBytes 0x0800) = .ok .cpPtypeIpv4 := by decide

theorem witness_DemuxSelSelectsArpOnly : doneP1.frameStatus = .ok ∧ doneP1.hdr.etherType = some 0x0806 ∧
    after (demuxed p1) (·.arpStatus) = some .ok := by decide

theorem witness_HardwareTypeNameNamesOnlyEthernet : doneP1.arpStatus = .ok ∧ doneP1.arp.hardwareType = some 1 ∧
    doneVa15.arpStatus = .ok ∧ doneVa15.arp.hardwareType = some 7 := by decide

theorem witness_ProtocolTypeNameFollowsTheTable : Config.namesOk (Config.defaultNames ++ [(0x86dd, .other 0)]) = true ∧
    Config.namesOk doneVa15.cfg.etypeNames = true ∧ doneVa15.arpStatus = .ok ∧ doneVa15.arp.protocolType = some 0x1234 ∧
    (0x1234 : Half) ∉ doneVa15.cfg.etypeNames.map Prod.fst := by decide

theorem witness_HardwareAddressViewsRenderEthernetAsHex : doneP1.arpStatus = .ok ∧ doneP1.arp.hardwareType = some 1 ∧
    doneP1.arp.senderHwAddr = some me ∧ doneP1.arp.targetHwAddr = some zm := by decide

theorem witness_ProtocolAddressViewsRenderIpv4AsDotted :
    (Config.namesOk doneP1.cfg.etypeNames = true ∧ doneP1.arpStatus = .ok ∧ doneP1.arp.protocolType = some 0x0800 ∧
      doneP1.arp.senderProtoAddr = some ip10 ∧ doneP1.arp.targetProtoAddr = some ip10) ∧
    (doneVa15.arpStatus = .ok ∧ doneVa15.arp.protocolType = some 0x1234 ∧ doneVa15.arp.senderProtoAddr = some [0x22, 0x33, 0x44] ∧
      doneVa15.arp.targetProtoAddr = some [0x66, 0x77, 0x88]) := by decide

theorem witness_OpclassIsTheFirstConditionThatHolds : doneP1.arpStatus = .ok ∧ doneP1.arp.operation = some 1 ∧
    doneP1.arp.senderHwAddr = some me ∧ doneP1.arp.senderProtoAddr = some ip10 ∧ doneP1.arp.targetHwAddr = some zm ∧
    doneP1.arp.targetProtoAddr = some ip10 := by decide

theorem witness_HexFormatsWriteTwoDigitsAByte : doneP1.frameStatus = .ok ∧
    doneP1.hdr.macDest = some ⟨0xff, 0xff, 0xff, 0xff, 0xff, 0xff⟩ ∧
    doneP1.hdr.macSrc = some ⟨0xf0, 0x27, 0x2d, 0x41, 0xcd, 0x83⟩ := by decide

/-- Registers of four bytes, of six, and of three. -/
theorem witness_FormatsOfAddressRegistersUseTheirBytes : doneP1.arpStatus = .ok ∧ doneP1.arp.senderProtoAddr = some ip10 ∧
    doneP1.arp.targetHwAddr = some zm ∧ doneVa15.arpStatus = .ok ∧ doneVa15.arp.targetProtoAddr = some [0x66, 0x77, 0x88] := by decide

theorem witness_TextsAreDrawnFromTheAsciiAlphabet : State.reset.answer = none ∧
    answers (.hexjoin (.lit [0xaf])) = some (some (.text "af".toList)) := by decide

theorem witness_ViewsWriteNoRegisterAndRepeat :
    after (andThen (exec .avOpclass doneP1) (exec (.hexjoin (.lit [0])))) (·.answer) = some (some (.text "00".toList)) := by decide

theorem witness_ViewsStopWithoutTheirRecord : State.reset.arpStatus ≠ .ok ∧ State.reset.frameStatus ≠ .ok := by decide

/-- P9 and P8: a failure of each decoder, from a state in which that decoder has not failed. -/
theorem witness_HardFailuresLeaveNoRecord : State.reset.frameStatus ≠ .tooShort ∧ State.reset.arpStatus ≠ .tooShort ∧
    after (demuxed (p1.take 14)) (·.frameStatus) = some .tooShort ∧ after (demuxed (p1.take 15)) (·.arpStatus) = some .tooShort ∧
    after (exec .adHdrchk (adState 1 (va1.take 7))) (·.arpStatus) = some .tooShort ∧
    (adState 1 (va1.take 7)).arpStatus = .notRun ∧
    after (exec .cpEtypeArp (fdState 8 (p1.take 21))) (·.arpStatus) = some .tooShort ∧
    after (arped (va1.take 7)) (·.arpStatus) = some .tooShort := by decide

/-- P4 and P5. -/
theorem witness_AnomalyCombinationsThatCannotOccur : after (demuxed p4) (·.hdr.wLenMismatch) = some (some true) ∧
    after (demuxed (p1.take 34)) (·.arp.wArpTrunc) = some (some true) := by decide

theorem witness_AddressFieldsStayWithinTheirDeclaredLengths : after (demuxed p1) (·.arpStatus) = some .ok ∧
    after (demuxed (p1.take 34)) (·.arpStatus) = some .ok := by decide

theorem witness_StepsOutsideTheirRunStop :
    (Instr.fdEtype.place = some (.frame, 6) ∧ (∀ c m, (adState 2 va1).cursor ≠ some ⟨.frame, c, m⟩) ∧
      (fdState 5 p1).cursor = some ⟨.frame, 12, 5⟩ ∧ (fdState 5 p1).bufferHeld = true) ∧
    ((presentFrame p2 (fdState 4 p1)).cursor = some ⟨.frame, 12, 4⟩ ∧ (presentFrame p2 (fdState 4 p1)).bufferHeld = false) ∧
    (Decoder.frame.stepCount = 9 ∧ (State.reset.setPending [.ret .frame]).pending = [.ret .frame]) ∧
    (State.reset.cursor = none ∧ State.reset.frameStatus ≠ .ok) ∧
    ((presentFrame p2 doneP1).Inv ∧ (presentFrame p2 doneP1).cursor = none ∧ (presentFrame p2 doneP1).frameStatus = .ok ∧
      (presentFrame p2 doneP1).hdr.etherType ≠ none ∧ (presentFrame p2 doneP1).bufferHeld = false) := by
  refine ⟨⟨by decide, fun c m h => ?_, by decide, by decide⟩, by decide, by decide, by decide,
    ⟨by decide, by decide, by decide, by decide, by decide, by decide, by decide, by decide⟩, by decide⟩
  have hc : (adState 2 va1).cursor = some ⟨.arp, 0, 2⟩ := by decide
  rw [hc] at h
  cases h

/-- Both records (P1); a header alone (P4); an ArpRecord alone (V-A15). -/
theorem witness_StatusAndDiagCodes :
    (doneP1.frameStatus = .ok ∧ doneP1.arpStatus = .ok ∧ doneP1.hdr.wLenMismatch = some false ∧
      doneP1.arp.wArpUnderlen = some false ∧ doneP1.arp.wArpTrailing = some false ∧ doneP1.arp.wArpTrunc = some false) ∧
    ((stateOf (demuxed p4)).frameStatus = .ok ∧ (stateOf (demuxed p4)).arpStatus ≠ .ok ∧
      (stateOf (demuxed p4)).hdr.wLenMismatch = some true) ∧
    (doneVa15.frameStatus ≠ .ok ∧ doneVa15.arpStatus = .ok ∧ doneVa15.arp.wArpUnderlen = some true ∧
      doneVa15.arp.wArpTrailing = some false ∧ doneVa15.arp.wArpTrunc = some false) := by decide

end Sys2Proof.Tests
end

section
/-! What an answered state satisfies: `Ensures`, with one rule for each shared operation; by these rules, no instruction and no
request but the caller's presenting of a frame changes the frame buffer or a parameter (20 R60). -/

namespace Sys2Proof.Machine

/-! ## What an operation ensures of the state it answers -/

/-- Every next state that an operation answers satisfies `P`; of a fault or a refusal nothing is asked. -/
def Ensures (o : Out) (P : State → Prop) : Prop := ∀ t, o = .next t → P t

section
variable {α : Type} {s : State} {P : State → Prop}

theorem ensures_next {t : State} (h : P t) : Ensures (.next t) P := by
  rintro _ ⟨⟩
  exact h

theorem ensures_fault (r : Fault) : Ensures (.fault r) P := by
  rintro _ ⟨⟩

theorem ensures_refused (r : Refusal) : Ensures (.refused r) P := by
  rintro _ ⟨⟩

theorem ensures_ite {c : Prop} [Decidable c] {a b : Out} (ha : c → Ensures a P) (hb : ¬ c → Ensures b P) :
    Ensures (if c then a else b) P := by
  split
  · exact ha ‹_›
  · exact hb ‹_›

theorem ensures_need {o : Option α} {r : Reg} {k : α → Out} (h : ∀ v, o = some v → Ensures (k v) P) :
    Ensures (need o r k) P := by
  intro t ht
  obtain ⟨v, hv, hk⟩ := need_next ht
  exact h v hv t hk

theorem ensures_validHdr {f : Header → Option α} {r : Reg} {k : α → Out} (h : ∀ v, f s.hdr = some v → Ensures (k v) P) :
    Ensures (validHdr s f r k) P := by
  intro t ht
  obtain ⟨-, v, hv, hk⟩ := validHdr_next ht
  exact h v hv t hk

theorem ensures_validArp {f : ArpRecord → Option α} {r : Reg} {k : α → Out} (h : ∀ v, f s.arp = some v → Ensures (k v) P) :
    Ensures (validArp s f r k) P := by
  intro t ht
  obtain ⟨-, v, hv, hk⟩ := validArp_next ht
  exact h v hv t hk

theorem ensures_ifHeld {k : Out} (h : s.bufferHeld = true → Ensures k P) : Ensures (ifHeld s k) P := by
  intro t ht
  obtain ⟨hb, hk⟩ := ifHeld_next ht
  exact h hb t hk

theorem ensures_inDecoder {d : Decoder} {n : Nat} {k : Nat → Out}
    (h : ∀ c, s.cursor = some ⟨d, c, n⟩ → s.bufferHeld = true → Ensures (k c) P) : Ensures (inDecoder d n s k) P := by
  intro t ht
  obtain ⟨c, hc, hb, hk⟩ := inDecoder_next ht
  exact h c hc hb t hk

theorem ensures_memRead8 {a : Nat} {k : Byte → Out} (h : a + 1 ≤ s.raw.len → Ensures (k (s.raw.byte a)) P) :
    Ensures (memRead8 s a k) P := by
  intro t ht
  obtain ⟨ha, hk⟩ := memRead8_next ht
  exact h ha t hk

theorem ensures_memRead16 {a : Nat} {k : Half → Out}
    (h : a + 2 ≤ s.raw.len → Ensures (k (be16 (s.raw.byte a) (s.raw.byte (a + 1)))) P) : Ensures (memRead16 s a k) P := by
  intro t ht
  obtain ⟨ha, hk⟩ := memRead16_next ht
  exact h ha t hk

theorem ensures_memRead32 {a : Nat} {k : Word → Out}
    (h : a + 4 ≤ s.raw.len →
      Ensures (k (be32 (s.raw.byte a) (s.raw.byte (a + 1)) (s.raw.byte (a + 2)) (s.raw.byte (a + 3)))) P) :
    Ensures (memRead32 s a k) P := by
  intro t ht
  obtain ⟨ha, hk⟩ := memRead32_next ht
  exact h ha t hk

theorem ensures_memMac {a : Nat} {k : Mac → Out} (h : a + 6 ≤ s.raw.len → Ensures (k (s.raw.macAt a)) P) :
    Ensures (memMac s a k) P := by
  intro t ht
  obtain ⟨ha, hk⟩ := memMac_next ht
  exact h ha t hk

/-- An operand's bytes come from a register or from the caller; whatever they are, the formatting function goes on with them. -/
theorem ensures_seqValue {src : SeqOperand} {k : List Byte → Out} (h : ∀ bytes, Ensures (k bytes) P) :
    Ensures (seqValue s src k) P := by
  cases src with
  | lit bytes => exact h bytes
  | reg r =>
    cases r with
    | macDest | macSrc => exact ensures_validHdr fun m _ => h m.toList
    | senderHwAddr | senderProtoAddr | targetHwAddr | targetProtoAddr => exact ensures_validArp fun bytes _ => h bytes

/-- Whatever the bits of a window are, the selection goes on with them. -/
theorem ensures_windowBytes {w : Window} {k : List Byte → Out} (h : ∀ bytes, Ensures (k bytes) P) :
    Ensures (windowBytes w s k) P := by
  cases w with
  | eth12 => exact ensures_inDecoder fun _ _ _ => ensures_memRead16 fun _ => h _
  | etype =>
    simp only [windowBytes]
    split
    · exact ensures_inDecoder fun _ _ _ => ensures_need fun v _ => h (halfBytes v)
    · exact ensures_validHdr fun v _ => h (halfBytes v)
  | arpHtype | arpPtype | arpOper => exact ensures_validArp fun v _ => h (halfBytes v)

theorem ensures_andThen {o : Out} {k : State → Out} {Q : State → Prop} (ho : Ensures o Q) (hk : ∀ u, Q u → Ensures (k u) P) :
    Ensures (andThen o k) P := by
  intro t ht
  obtain ⟨u, hu, hk'⟩ := andThen_next ht
  exact hk u (ho u hu) t hk'

end

/-! ## Operations that keep the frame buffer and the parameters -/

/-- Two states with the same frame buffer and the same parameters. -/
structure SameBuffer (s t : State) : Prop where
  raw : t.raw = s.raw
  cfg : t.cfg = s.cfg

theorem SameBuffer.refl (s : State) : SameBuffer s s := ⟨rfl, rfl⟩

theorem SameBuffer.trans {s t u : State} (h : SameBuffer s t) (h' : SameBuffer t u) : SameBuffer s u :=
  ⟨h'.raw.trans h.raw, h'.cfg.trans h.cfg⟩

/-- Every byte of the frame reads as before, and its length and the parameters are unchanged. -/
theorem SameBuffer.reads {s t : State} (h : SameBuffer s t) :
    (∀ a, t.raw.byte a = s.raw.byte a) ∧ t.raw.len = s.raw.len ∧ t.cfg = s.cfg := by
  rw [h.raw, h.cfg]
  exact ⟨fun _ => rfl, rfl, rfl⟩

/-- An operation that never changes the frame buffer or a parameter. -/
def KeepsBuffer (f : State → Out) : Prop := ∀ s, Ensures (f s) (SameBuffer s)

theorem raiseTooShort_sameBuffer (d : Decoder) (s : State) : SameBuffer s (raiseTooShort d s) := by
  cases d <;> exact ⟨rfl, rfl⟩

/-- Answering a value to the caller keeps the buffer. -/
theorem ensures_setAnswer (s : State) (v : Value) : Ensures (.next (s.setAnswer v)) (SameBuffer s) :=
  ensures_next ⟨rfl, rfl⟩

theorem KeepsBuffer.runSteps {failed : State → Bool} {steps : List (State → Out)} (h : ∀ f ∈ steps, KeepsBuffer f) :
    KeepsBuffer (runSteps failed steps) := fun s _ =>
  runSteps_keeps (fun f hf u v hu hv => hu.trans (h f hf u v hv)) (SameBuffer.refl s)

/-- Run from a state with the same buffer, the operation still leaves that buffer. -/
theorem KeepsBuffer.after {f : State → Out} (hf : KeepsBuffer f) {s u : State} (hu : SameBuffer s u) :
    Ensures (f u) (SameBuffer s) := fun t ht =>
  hu.trans (hf u t ht)

theorem KeepsBuffer.andThen {f g : State → Out} (hf : KeepsBuffer f) (hg : KeepsBuffer g) :
    KeepsBuffer fun s => andThen (f s) g := fun s =>
  ensures_andThen (hf s) fun _ hu => hg.after hu

/-! ## The start and the return of a decoder -/

theorem startRun_keepsBuffer (e : Entry) : KeepsBuffer (startRun e) := by
  intro s
  cases e with
  | frame => exact ensures_ite (fun _ => ensures_refused _) fun _ => ensures_next ⟨rfl, rfl⟩
  | arpPayload =>
    exact ensures_validHdr fun _ _ => ensures_validHdr fun _ _ => ensures_ifHeld fun _ => ensures_next ⟨rfl, rfl⟩
  | arpWhole => exact ensures_next ⟨rfl, rfl⟩

theorem decoderReturn_keepsBuffer (d : Decoder) : KeepsBuffer (decoderReturn d) := by
  intro s
  cases d with
  | frame | arp => exact ensures_inDecoder fun _ _ _ => ensures_next ⟨rfl, rfl⟩

/-! ## FrameDecoder -/

theorem execFdLenchk_keepsBuffer : KeepsBuffer execFdLenchk := fun s =>
  ensures_inDecoder fun _ _ _ =>
    ensures_ite (fun _ => ensures_next (raiseTooShort_sameBuffer .frame s)) fun _ => ensures_next ⟨rfl, rfl⟩

theorem execFdMacdst_keepsBuffer : KeepsBuffer execFdMacdst := fun _ =>
  ensures_inDecoder fun _ _ _ => ensures_memMac fun _ => ensures_next ⟨rfl, rfl⟩

theorem execFdMacsrc_keepsBuffer : KeepsBuffer execFdMacsrc := fun _ =>
  ensures_inDecoder fun _ _ _ => ensures_memMac fun _ => ensures_next ⟨rfl, rfl⟩

theorem execFdVlanpeek_keepsBuffer : KeepsBuffer execFdVlanpeek := fun _ =>
  ensures_inDecoder fun _ _ _ => ensures_memRead16 fun _ => ensures_next ⟨rfl, rfl⟩

theorem execFdVlanchk_keepsBuffer : KeepsBuffer execFdVlanchk := fun s =>
  ensures_inDecoder fun _ _ _ => ensures_need fun _ _ =>
    ensures_ite (fun _ => ensures_next (raiseTooShort_sameBuffer .frame s)) fun _ => ensures_next ⟨rfl, rfl⟩

theorem execFdVlantag_keepsBuffer : KeepsBuffer execFdVlantag := fun _ =>
  ensures_inDecoder fun _ _ _ => ensures_need fun _ _ =>
    ensures_ite (fun _ => ensures_memRead32 fun _ => ensures_next ⟨rfl, rfl⟩) fun _ => ensures_next ⟨rfl, rfl⟩

theorem execFdEtype_keepsBuffer : KeepsBuffer execFdEtype := fun _ =>
  ensures_inDecoder fun _ _ _ => ensures_need fun _ _ =>
    ensures_ite (fun _ => ensures_memRead16 fun _ => ensures_next ⟨rfl, rfl⟩) fun _ =>
      ensures_memRead16 fun _ => ensures_next ⟨rfl, rfl⟩

theorem execFdPayload_keepsBuffer : KeepsBuffer execFdPayload := fun _ =>
  ensures_inDecoder fun _ _ _ => ensures_need fun _ _ =>
    ensures_ite (fun _ => ensures_next ⟨rfl, rfl⟩) fun _ => ensures_fault _

theorem lenwarnOf_keepsBuffer (etherType : Half) (off : Nat) : KeepsBuffer (lenwarnOf etherType off) := fun _ =>
  ensures_need fun _ _ => ensures_next ⟨rfl, rfl⟩

theorem execFdLenwarn_keepsBuffer : KeepsBuffer execFdLenwarn := fun s =>
  ensures_inDecoder fun off _ _ => ensures_need fun et _ => lenwarnOf_keepsBuffer et off s

theorem frameSteps_keepBuffer : ∀ f ∈ frameSteps, KeepsBuffer f := by
  simp only [frameSteps, List.forall_mem_cons]
  exact ⟨execFdLenchk_keepsBuffer, execFdMacdst_keepsBuffer, execFdMacsrc_keepsBuffer, execFdVlanpeek_keepsBuffer,
    execFdVlanchk_keepsBuffer, execFdVlantag_keepsBuffer, execFdEtype_keepsBuffer, execFdPayload_keepsBuffer,
    execFdLenwarn_keepsBuffer, List.forall_mem_nil _⟩

theorem execFrameDecode_keepsBuffer : KeepsBuffer execFrameDecode := by
  refine .runSteps ?_
  simp only [List.forall_mem_cons, List.forall_mem_append]
  exact ⟨startRun_keepsBuffer .frame, frameSteps_keepBuffer, decoderReturn_keepsBuffer .frame, List.forall_mem_nil _⟩

/-! ## ArpDecoder -/

theorem execAdLenchk_keepsBuffer : KeepsBuffer execAdLenchk := fun _ =>
  ensures_inDecoder fun _ _ _ => ensures_next ⟨rfl, rfl⟩

theorem execAdHdrchk_keepsBuffer : KeepsBuffer execAdHdrchk := fun s =>
  ensures_inDecoder fun _ _ _ =>
    ensures_ite (fun _ => ensures_next (raiseTooShort_sameBuffer .arp s)) fun _ => ensures_next ⟨rfl, rfl⟩

theorem execAdHtype_keepsBuffer : KeepsBuffer execAdHtype := fun _ =>
  ensures_inDecoder fun _ _ _ => ensures_memRead16 fun _ => ensures_next ⟨rfl, rfl⟩

theorem execAdPtype_keepsBuffer : KeepsBuffer execAdPtype := fun _ =>
  ensures_inDecoder fun _ _ _ => ensures_memRead16 fun _ => ensures_next ⟨rfl, rfl⟩

theorem execAdHlen_keepsBuffer : KeepsBuffer execAdHlen := fun _ =>
  ensures_inDecoder fun _ _ _ => ensures_memRead8 fun _ => ensures_next ⟨rfl, rfl⟩

theorem execAdPlen_keepsBuffer : KeepsBuffer execAdPlen := fun _ =>
  ensures_inDecoder fun _ _ _ => ensures_memRead8 fun _ => ensures_next ⟨rfl, rfl⟩

theorem execAdOper_keepsBuffer : KeepsBuffer execAdOper := fun _ =>
  ensures_inDecoder fun _ _ _ => ensures_memRead16 fun _ => ensures_next ⟨rfl, rfl⟩

theorem execAdSha_keepsBuffer : KeepsBuffer execAdSha := fun _ =>
  ensures_inDecoder fun _ _ _ => ensures_need fun _ _ => ensures_next ⟨rfl, rfl⟩

theorem execAdSpa_keepsBuffer : KeepsBuffer execAdSpa := fun _ =>
  ensures_inDecoder fun _ _ _ => ensures_need fun _ _ => ensures_next ⟨rfl, rfl⟩

theorem execAdTha_keepsBuffer : KeepsBuffer execAdTha := fun _ =>
  ensures_inDecoder fun _ _ _ => ensures_need fun _ _ => ensures_next ⟨rfl, rfl⟩

theorem execAdTpa_keepsBuffer : KeepsBuffer execAdTpa := fun _ =>
  ensures_inDecoder fun _ _ _ => ensures_need fun _ _ => ensures_next ⟨rfl, rfl⟩

theorem execAdTrunc_keepsBuffer : KeepsBuffer execAdTrunc := fun _ =>
  ensures_inDecoder fun _ _ _ => ensures_need fun _ _ => ensures_next ⟨rfl, rfl⟩

theorem execAdTrail_keepsBuffer : KeepsBuffer execAdTrail := fun _ =>
  ensures_inDecoder fun _ _ _ => ensures_need fun _ _ => ensures_next ⟨rfl, rfl⟩

theorem arpSteps_keepBuffer : ∀ f ∈ arpSteps, KeepsBuffer f := by
  simp only [arpSteps, List.forall_mem_cons]
  exact ⟨execAdLenchk_keepsBuffer, execAdHdrchk_keepsBuffer, execAdHtype_keepsBuffer, execAdPtype_keepsBuffer,
    execAdHlen_keepsBuffer, execAdPlen_keepsBuffer, execAdOper_keepsBuffer, execAdSha_keepsBuffer, execAdSpa_keepsBuffer,
    execAdTha_keepsBuffer, execAdTpa_keepsBuffer, execAdTrunc_keepsBuffer, execAdTrail_keepsBuffer, List.forall_mem_nil _⟩

theorem arpRun_keepsBuffer (e : Entry) : KeepsBuffer (arpRun e) := by
  refine .runSteps ?_
  simp only [List.forall_mem_cons, List.forall_mem_append]
  exact ⟨startRun_keepsBuffer e, arpSteps_keepBuffer, decoderReturn_keepsBuffer .arp, List.forall_mem_nil _⟩

theorem execArpDecode_keepsBuffer (src : ArpInput) : KeepsBuffer (execArpDecode src) := by
  cases src with
  | payload => exact arpRun_keepsBuffer .arpPayload
  | whole => exact arpRun_keepsBuffer .arpWhole

/-! ## The pipeline and the code points -/

theorem execDemux_keepsBuffer : KeepsBuffer execDemux :=
  execFrameDecode_keepsBuffer.andThen fun u =>
    ensures_ite (fun _ => ensures_next (.refl u)) fun _ => ensures_validHdr fun _ _ =>
      ensures_ite (fun _ => arpRun_keepsBuffer .arpPayload u) fun _ => ensures_next ⟨rfl, rfl⟩

theorem execCpEth12Vlan_keepsBuffer : KeepsBuffer execCpEth12Vlan := by
  have steps : ∀ f ∈ [execFdVlanchk, execFdVlantag, execFdEtype, execFdPayload], KeepsBuffer f := by
    simp only [List.forall_mem_cons]
    exact ⟨execFdVlanchk_keepsBuffer, execFdVlantag_keepsBuffer, execFdEtype_keepsBuffer, execFdPayload_keepsBuffer,
      List.forall_mem_nil _⟩
  exact fun _ => ensures_inDecoder fun _ _ _ => (KeepsBuffer.runSteps steps).after ⟨rfl, rfl⟩

theorem execCpEth12Plain_keepsBuffer (etherType : Half) : KeepsBuffer (execCpEth12Plain etherType) := fun _ =>
  ensures_inDecoder fun _ _ _ => execFdPayload_keepsBuffer.after ⟨rfl, rfl⟩

theorem finishFrame_keepsBuffer (etherType : Half) : KeepsBuffer (finishFrame etherType) := by
  intro s t ht
  obtain ⟨-, ⟨_, _, -, -, rfl⟩ | ⟨-, -, -, rfl⟩⟩ := finishFrame_next ht <;> exact ⟨rfl, rfl⟩

theorem execCpEtypeArp_keepsBuffer : KeepsBuffer execCpEtypeArp :=
  (finishFrame_keepsBuffer _).andThen (arpRun_keepsBuffer .arpPayload)

theorem notArp_keepsBuffer (etherType : Half) : KeepsBuffer (notArp etherType) :=
  (finishFrame_keepsBuffer etherType).andThen fun _ => ensures_next ⟨rfl, rfl⟩

/-! ## The views and helper functions -/

theorem execMacFmt_keepsBuffer (src : SeqOperand) : KeepsBuffer (execMacFmt src) := fun s =>
  ensures_seqValue fun _ => by
    split
    · exact ensures_setAnswer s _
    · exact ensures_fault _

theorem execDotted_keepsBuffer (src : SeqOperand) : KeepsBuffer (execDotted src) := fun s =>
  ensures_seqValue fun _ => by
    split
    · exact ensures_setAnswer s _
    · exact ensures_fault _

theorem execAvOpclass_keepsBuffer : KeepsBuffer execAvOpclass := fun s =>
  ensures_validArp fun _ _ => ensures_validArp fun _ _ => ensures_validArp fun _ _ => ensures_validArp fun _ _ =>
    ensures_validArp fun _ _ => ensures_setAnswer s _

theorem readRegister_keepsBuffer (r : Reg) : KeepsBuffer (readRegister r) := by
  intro s t ht
  obtain ⟨v, -, -, rfl⟩ := readRegister_next ht
  exact ⟨rfl, rfl⟩

/-! ## Every instruction, and every request but the presenting of a frame -/

/-- 20 R60: no instruction changes the frame buffer or a parameter. -/
theorem exec_keepsBuffer : ∀ i : Instr, KeepsBuffer (exec i)
  | .cpEth12Vlan => execCpEth12Vlan_keepsBuffer
  | .cpEth12Plain etherType => execCpEth12Plain_keepsBuffer etherType
  | .cpEtypeArp => execCpEtypeArp_keepsBuffer
  | .cpEtypeLength etherType | .cpEtypeOther etherType => notArp_keepsBuffer etherType
  | .cpHtypeEthernet | .cpHtypeOther _ | .cpPtypeIpv4 | .cpPtypeArp | .cpPtypeOther _ | .cpOperRequest | .cpOperReply
  | .cpOperOther _ => fun s => ensures_setAnswer s _
  | .demux => execDemux_keepsBuffer
  | .demuxSel => fun s => ensures_validHdr fun _ _ => ensures_setAnswer s _
  | .frameDecode => execFrameDecode_keepsBuffer
  | .fdLenchk => execFdLenchk_keepsBuffer
  | .fdMacdst => execFdMacdst_keepsBuffer
  | .fdMacsrc => execFdMacsrc_keepsBuffer
  | .fdVlanpeek => execFdVlanpeek_keepsBuffer
  | .fdVlanchk => execFdVlanchk_keepsBuffer
  | .fdVlantag => execFdVlantag_keepsBuffer
  | .fdEtype => execFdEtype_keepsBuffer
  | .fdPayload => execFdPayload_keepsBuffer
  | .fdLenwarn => execFdLenwarn_keepsBuffer
  | .macFmt src => execMacFmt_keepsBuffer src
  | .arpDecode src => execArpDecode_keepsBuffer src
  | .adLenchk => execAdLenchk_keepsBuffer
  | .adHdrchk => execAdHdrchk_keepsBuffer
  | .adHtype => execAdHtype_keepsBuffer
  | .adPtype => execAdPtype_keepsBuffer
  | .adHlen => execAdHlen_keepsBuffer
  | .adPlen => execAdPlen_keepsBuffer
  | .adOper => execAdOper_keepsBuffer
  | .adSha => execAdSha_keepsBuffer
  | .adSpa => execAdSpa_keepsBuffer
  | .adTha => execAdTha_keepsBuffer
  | .adTpa => execAdTpa_keepsBuffer
  | .adTrunc => execAdTrunc_keepsBuffer
  | .adTrail => execAdTrail_keepsBuffer
  | .hexjoin _ => fun s => ensures_seqValue fun _ => ensures_setAnswer s _
  | .dotted src => execDotted_keepsBuffer src
  | .avHwname | .avPtname => fun s => ensures_validArp fun _ _ => ensures_setAnswer s _
  | .avSpaStr | .avTpaStr | .avShaStr | .avThaStr => fun s =>
    ensures_validArp fun _ _ => ensures_validArp fun _ _ => ensures_setAnswer s _
  | .avOpclass => execAvOpclass_keepsBuffer

theorem runWindow_keepsBuffer (w : Window) : KeepsBuffer (runWindow w) := fun s =>
  ensures_windowBytes fun _ => by
    split
    · exact exec_keepsBuffer _ s
    · exact ensures_refused _

/-- 20 R60, R62: only the caller's presenting of a frame changes the buffer. -/
theorem doOp_keepsBuffer {op : Op} (h : ∀ bytes, op ≠ .present bytes) : KeepsBuffer (doOp op) := by
  intro s
  cases op with
  | present bytes => exact absurd rfl (h bytes)
  | run i => exact ensures_ite (fun _ => exec_keepsBuffer i s) fun _ => ensures_refused _
  | select w => exact runWindow_keepsBuffer w s
  | start e => exact startRun_keepsBuffer e s
  | ret d => exact decoderReturn_keepsBuffer d s
  | read r => exact readRegister_keepsBuffer r s
  | reset => exact ensures_next ⟨rfl, rfl⟩

/-- A step that presents no frame keeps the buffer and the parameters. -/
theorem step_sameBuffer {s t : State} (h : step s = .next t) (hp : ∀ bytes rest, s.pending ≠ .present bytes :: rest) :
    SameBuffer s t := by
  cases hs : s.pending with
  | nil =>
    rw [step_idle hs] at h
    cases h
    exact .refl s
  | cons op rest =>
    rw [step_cons hs] at h
    have hop : ∀ bytes, op ≠ .present bytes := by
      rintro bytes rfl
      exact hp bytes rest hs
    have hs' : SameBuffer s (s.setPending rest) := ⟨rfl, rfl⟩
    exact (doOp_keepsBuffer hop).after hs' t h

/-- Settles O27: every instruction keeps the buffer by the rules of its shared operations, and so every request but the presenting of
a frame. -/
theorem onlyTheCallerWritesTheFrame : Obligations.OnlyTheCallerWritesTheFrame :=
  ⟨fun i s t h => (exec_keepsBuffer i s t h).reads, fun _ _ h hp => (step_sameBuffer h hp).reads⟩

end Sys2Proof.Machine
end

section
/-! The pipeline: DEMUX depends on the frame and its bound only (40 R105), and it runs ArpDecoder on 0x0806 only (40 R101). -/

namespace Sys2Proof.Machine

/-! ## Outcomes that agree in every result -/

/-- Two outcomes of one kind: next states with the same result registers, or the same fault, or the same refusal. -/
inductive SameOutcome : Out → Out → Prop where
  | next {s t : State} (h : SameResult s t) : SameOutcome (.next s) (.next t)
  | fault (r : Fault) : SameOutcome (.fault r) (.fault r)
  | refused (r : Refusal) : SameOutcome (.refused r) (.refused r)

theorem SameOutcome.ite {c : Prop} [Decidable c] {a b a' b' : Out} (ha : c → SameOutcome a a')
    (hb : ¬ c → SameOutcome b b') : SameOutcome (if c then a else b) (if c then a' else b') := by
  split
  · exact ha ‹_›
  · exact hb ‹_›

theorem SameOutcome.next_left {s' : State} {o : Out} (h : SameOutcome (.next s') o) :
    ∃ t', o = .next t' ∧ SameResult s' t' := by
  cases h with
  | next h => exact ⟨_, rfl, h⟩

theorem SameOutcome.refused_left {r : Refusal} {o : Out} (h : SameOutcome (.refused r) o) : o = .refused r := by
  cases h with
  | refused => rfl

/-! ## DEMUX of one frame in two states -/

section
variable {s t : State}

theorem tooLong_congr (hraw : s.raw = t.raw) (hmax : s.cfg.maxFrameBytes = t.cfg.maxFrameBytes) : s.tooLong = t.tooLong := by
  simp only [State.tooLong, hraw, hmax]

theorem frameFailure_sameResult (s t : State) : SameResult (frameFailure s) (frameFailure t) :=
  ⟨rfl, rfl, rfl, rfl, rfl, rfl, rfl⟩

theorem frameSuccess_sameResult (hraw : s.raw = t.raw) : SameResult (frameSuccess s) (frameSuccess t) :=
  ⟨rfl, rfl, congrArg Frame.header hraw, rfl, rfl, rfl, rfl⟩

/-- What ArpDecoder leaves after FrameDecoder keeps the agreement, whatever remains to be done: the same status, the same record. -/
theorem SameResult.withArp (h : SameResult s t) (status : ArpStatus) (a : ArpRecord) (p q : List Op) :
    SameResult { s with arpStatus := status, arp := a, pending := p } { t with arpStatus := status, arp := a, pending := q } := by
  obtain ⟨hframe, -, hhdr, -, hcursor, hheld, hanswer⟩ := h
  exact ⟨hframe, rfl, hhdr, rfl, hcursor, hheld, hanswer⟩

/-- DEMUX reads of a state only the frame and whether the bound admits it: both states take the same branch of the closed form. -/
theorem execDemux_sameOutcome (hraw : s.raw = t.raw) (hlong : s.tooLong = t.tooLong) :
    SameOutcome (execDemux s) (execDemux t) := by
  have hsucc : SameResult (frameSuccess s) (frameSuccess t) := frameSuccess_sameResult hraw
  rw [execDemux_eq, execDemux_eq, ← hraw, ← hlong]
  refine .ite (fun _ => .refused _) fun _ => .ite (fun _ => .next (frameFailure_sameResult s t)) fun _ =>
    .ite (fun _ => .next ?_) fun _ => .next hsucc
  split
  · exact hsucc.withArp .tooShort ArpRecord.invalid _ _
  · exact hsucc.withArp .ok _ _ _

end

/-- Settles O24: by the closed form of DEMUX, whose every branch is chosen and filled by the frame and its bound. -/
theorem demuxDependsOnTheFrameOnly : Obligations.DemuxDependsOnTheFrameOnly := by
  intro s t hraw hmax
  have same : SameOutcome (exec .demux s) (exec .demux t) := execDemux_sameOutcome hraw (tooLong_congr hraw hmax)
  constructor
  · intro s' hs
    rw [hs] at same
    exact same.next_left
  · intro r hs
    rw [hs] at same
    exact same.refused_left

/-! ## The selection of ArpDecoder -/

theorem execDemuxSel_of_etherType {s : State} {et : Half} (hok : s.frameStatus = .ok) (het : s.hdr.etherType = some et) :
    execDemuxSel s = .next (s.setAnswer (.bit (selectsArp et))) := by
  rw [execDemuxSel, validHdr_ok hok, het, need_some]

/-- 40 R101: only the branch of the EtherType 0x0806 runs ArpDecoder. -/
theorem execDemux_arpStatus (s : State) :
    Ensures (execDemux s) fun t => t.arpStatus ≠ .notRun → t.hdr.etherType = some Const.etypeArp := by
  rw [execDemux_eq]
  refine ensures_ite (fun _ => ensures_refused _) fun _ => ensures_ite (fun _ => ensures_next fun hrun => absurd rfl hrun)
    fun _ => ensures_ite (fun hsel => ensures_next fun _ => ?_) fun _ => ensures_next fun hrun => absurd rfl hrun
  have het : (frameSuccess s).hdr.etherType = some Const.etypeArp := congrArg some (eq_of_beq hsel)
  split <;> exact het

/-- Settles O43: DEMUX.SEL answers the comparison of R101, and DEMUX leaves NOT_RUN on every branch but that of 0x0806. -/
theorem demuxSelSelectsArpOnly : Obligations.DemuxSelSelectsArpOnly :=
  ⟨fun _ _ hok het => execDemuxSel_of_etherType hok het, fun s t h => execDemux_arpStatus s t h⟩

end Sys2Proof.Machine
end

section
/-! The steps of FrameDecoder that fail on no frame (41 R112 to R114, R116 to R119): each, when FrameDecoder has reached it on a
frame that holds the bytes it reads, writes its registers and moves the cursor, and changes nothing else. -/

namespace Sys2Proof.Machine

section
variable {s : State}

/-! ## The guard and the reads when they go on -/

theorem State.FrameAt.inDecoder_eq {n c : Nat} (h : s.FrameAt n c) (k : Nat → Out) : inDecoder .frame n s k = k c := by
  obtain ⟨hheld, hcursor⟩ := h
  exact inDecoder_reached hcursor hheld k

theorem memRead16_inside {a : Nat} (h : a + 2 ≤ s.raw.len) (k : Half → Out) :
    memRead16 s a k = k (be16 (s.raw.byte a) (s.raw.byte (a + 1))) := if_pos h

theorem memRead32_inside {a : Nat} (h : a + 4 ≤ s.raw.len) (k : Word → Out) :
    memRead32 s a k = k (be32 (s.raw.byte a) (s.raw.byte (a + 1)) (s.raw.byte (a + 2)) (s.raw.byte (a + 3))) := if_pos h

theorem memMac_inside {a : Nat} (h : a + 6 ≤ s.raw.len) (k : Mac → Out) : memMac s a k = k (s.raw.macAt a) := if_pos h

/-! ## What each step answers when FrameDecoder has reached it -/

variable {c : Nat}

theorem execFdMacdst_reached (hat : s.FrameAt 1 c) (hlen : 6 ≤ s.raw.len) :
    execFdMacdst s = .next ((s.setHdr { s.hdr with macDest := some (s.raw.macAt 0) }).reach .frame 6 2) := by
  rw [execFdMacdst, hat.inDecoder_eq, memMac_inside hlen]

theorem execFdMacsrc_reached (hat : s.FrameAt 2 c) (hlen : 12 ≤ s.raw.len) :
    execFdMacsrc s = .next ((s.setHdr { s.hdr with macSrc := some (s.raw.macAt 6) }).reach .frame 12 3) := by
  rw [execFdMacsrc, hat.inDecoder_eq, memMac_inside hlen]

theorem execFdVlanpeek_reached (hat : s.FrameAt 3 c) (hlen : 14 ≤ s.raw.len) :
    execFdVlanpeek s = .next ((s.setHdr { s.hdr with vlanPresent := some s.raw.tagged }).reach .frame c 4) := by
  rw [execFdVlanpeek, hat.inDecoder_eq, memRead16_inside hlen, Frame.tagged]

theorem execFdVlantag_tagged (hat : s.FrameAt 5 c) (htag : s.hdr.vlanPresent = some true) (hlen : 16 ≤ s.raw.len) :
    execFdVlantag s = .next ((s.setHdr { s.hdr with
      vlanTag := some (be32 (s.raw.byte 12) (s.raw.byte 13) (s.raw.byte 14) (s.raw.byte 15)) }).reach .frame 16 6) := by
  rw [execFdVlantag, hat.inDecoder_eq, htag, need_some, if_pos rfl, memRead32_inside hlen]

theorem execFdVlantag_untagged (hat : s.FrameAt 5 c) (htag : s.hdr.vlanPresent = some false) :
    execFdVlantag s = .next (s.reach .frame c 6) := by
  rw [execFdVlantag, hat.inDecoder_eq, htag, need_some, if_neg Bool.false_ne_true]

theorem execFdEtype_tagged (hat : s.FrameAt 6 c) (htag : s.hdr.vlanPresent = some true) (hlen : 18 ≤ s.raw.len) :
    execFdEtype s = .next ((s.setHdr { s.hdr with
      etherType := some (be16 (s.raw.byte 16) (s.raw.byte 17)) }).reach .frame 18 7) := by
  rw [execFdEtype, hat.inDecoder_eq, htag, need_some, if_pos rfl, memRead16_inside hlen]

theorem execFdEtype_untagged (hat : s.FrameAt 6 c) (htag : s.hdr.vlanPresent = some false) (hlen : 14 ≤ s.raw.len) :
    execFdEtype s = .next ((s.setHdr { s.hdr with
      etherType := some (be16 (s.raw.byte 12) (s.raw.byte 13)) }).reach .frame 14 7) := by
  rw [execFdEtype, hat.inDecoder_eq, htag, need_some, if_neg Bool.false_ne_true, memRead16_inside hlen]

theorem execFdPayload_reached {tagged : Bool} (hat : s.FrameAt 7 c) (htag : s.hdr.vlanPresent = some tagged)
    (hlen : headerLength tagged ≤ s.raw.len) :
    execFdPayload s = .next ((s.setHdr { s.hdr with
      hdrLen := some (headerLength tagged), payloadOff := some (headerLength tagged),
      payloadLen := some (s.raw.len - headerLength tagged) }).reach .frame c 8) := by
  rw [execFdPayload, hat.inDecoder_eq, htag, need_some, if_pos hlen]

theorem execFdLenwarn_reached {et : Half} {n : Nat} (hat : s.FrameAt 8 c) (het : s.hdr.etherType = some et)
    (hn : s.hdr.payloadLen = some n) :
    execFdLenwarn s = .next ((s.setHdr { s.hdr with wLenMismatch := some (lenMismatch et n) }).reach .frame c 9) := by
  rw [execFdLenwarn, hat.inDecoder_eq, het, need_some, lenwarnOf, hn, need_some]

end

/-- 41 R119: the flag's condition as a comparison of numbers. -/
theorem lenMismatch_iff (etherType : Half) (n : Nat) :
    lenMismatch etherType n = true ↔ etherType.toNat ≤ 1500 ∧ n < etherType.toNat := by
  simp only [lenMismatch, Bool.and_eq_true, decide_eq_true_eq]

/-! ## The obligations -/

/-- Settles O29: both steps store the address that stands at their offset, whose bytes are that part of the frame. -/
theorem fdMacStepsStoreTheAddressBytes : Obligations.FdMacStepsStoreTheAddressBytes := by
  intro s c
  constructor
  · intro hat hlen
    exact ⟨s.raw.macAt 0, s.raw.macAt_toList 0 hlen, execFdMacdst_reached hat hlen⟩
  · intro hat hlen
    exact ⟨s.raw.macAt 6, s.raw.macAt_toList 6 hlen, execFdMacsrc_reached hat hlen⟩

/-- Settles O30: the step stores the marker test, which reads the 16 bits at offset 12. -/
theorem fdVlanpeekTestsTheMarkerExactly : Obligations.FdVlanpeekTestsTheMarkerExactly :=
  fun s _ hat hlen => ⟨s.raw.tagged, s.raw.tagged_iff hlen, execFdVlanpeek_reached hat hlen⟩

/-- Settles O31: the two formats of the step; the tag's number is that of the four bytes from offset 12. -/
theorem fdVlantagStoresTheTagOfATaggedFrame : Obligations.FdVlantagStoresTheTagOfATaggedFrame := by
  intro s c hat
  constructor
  · intro htag hlen
    exact ⟨_, (be32At_raw s.raw 12 hlen).symm, execFdVlantag_tagged hat htag hlen⟩
  · intro htag
    exact execFdVlantag_untagged hat htag

/-- Settles O32: the two formats of the step; the EtherType's number is that of the two bytes at its offset. -/
theorem fdEtypeReadsAtTheFormatsOffset : Obligations.FdEtypeReadsAtTheFormatsOffset := by
  intro s c hat
  constructor
  · intro htag hlen
    exact ⟨_, (be16At_raw s.raw 16 hlen).symm, execFdEtype_tagged hat htag hlen⟩
  · intro htag hlen
    exact ⟨_, (be16At_raw s.raw 12 hlen).symm, execFdEtype_untagged hat htag hlen⟩

/-- Settles O33: header and rest make up the frame, since the header lies inside it. -/
theorem fdPayloadDelimitsTheRestOfTheFrame : Obligations.FdPayloadDelimitsTheRestOfTheFrame := by
  rintro s c tagged _ hat htag rfl hlen
  have hsum : headerLength tagged + (s.raw.len - headerLength tagged) = s.raw.bytes.length := by
    rw [Frame.length_bytes]
    exact Nat.add_sub_cancel' hlen
  exact ⟨s.raw.len - headerLength tagged, hsum, execFdPayload_reached hat htag hlen⟩

/-- Settles O34: the step stores the flag's condition. -/
theorem fdLenwarnFlagsAShorterPayloadOnly : Obligations.FdLenwarnFlagsAShorterPayloadOnly :=
  fun _ _ et n hat het hn => ⟨lenMismatch et n, lenMismatch_iff et n, execFdLenwarn_reached hat het hn⟩

end Sys2Proof.Machine
end

section
/-! The five steps of ArpDecoder that read the fixed header (42 R133 to R137): a read of the payload gives the bytes of ArpDecoder's
input, so each step stores the bytes at its offset and moves the cursor, and changes nothing else. -/

namespace Sys2Proof.Machine

section
variable {s : State}

/-! ## Reads of the payload as bytes of ArpDecoder's input -/

theorem State.ArpAt.inDecoder_eq {n c : Nat} (h : s.ArpAt n c) (k : Nat → Out) : inDecoder .arp n s k = k c := by
  obtain ⟨hheld, hcursor⟩ := h
  exact inDecoder_reached hcursor hheld k

theorem State.arpInput_length (s : State) : s.arpInput.length = min s.arpLen (s.raw.len - s.arpView.1) :=
  s.raw.slice_length s.arpView.1 s.arpLen

/-- Every byte of the input stands inside the frame, wherever the view is: the input is a clamped slice. -/
theorem State.arpView_add_lt {i : Nat} (h : i < s.arpInput.length) : s.arpView.1 + i < s.raw.len := by
  rw [s.arpInput_length] at h
  omega

theorem State.arpInput_getD {i : Nat} (h : i < s.arpInput.length) : s.arpInput.getD i 0#8 = s.raw.byte (s.arpView.1 + i) := by
  rw [List.getD_eq_getElem _ _ h]
  simp [State.arpInput, State.paySlice, Frame.slice, Frame.bytesFrom]

theorem payRead8_inside {o : Nat} (h : o + 1 ≤ s.arpInput.length) (k : Byte → Out) :
    payRead8 s o k = k (s.arpInput.getD o 0#8) := by
  rw [State.arpInput_getD h]
  exact if_pos (State.arpView_add_lt h)

theorem payRead16_inside {o : Nat} (h : o + 2 ≤ s.arpInput.length) (k : Half → Out) :
    payRead16 s o k = k (be16 (s.arpInput.getD o 0#8) (s.arpInput.getD (o + 1) 0#8)) := by
  rw [State.arpInput_getD h, State.arpInput_getD (Nat.lt_of_succ_lt h)]
  exact memRead16_inside (State.arpView_add_lt (i := o + 1) h) k

/-! ## What each step answers when ArpDecoder has reached it -/

variable {c : Nat}

theorem execAdHtype_reached (hat : s.ArpAt 2 c) (hlen : 2 ≤ s.arpInput.length) :
    execAdHtype s = .next ((s.setArp { s.arp with
      hardwareType := some (be16 (s.arpInput.getD 0 0#8) (s.arpInput.getD 1 0#8)) }).reach .arp 2 3) := by
  rw [execAdHtype, hat.inDecoder_eq, payRead16_inside hlen]

theorem execAdPtype_reached (hat : s.ArpAt 3 c) (hlen : 4 ≤ s.arpInput.length) :
    execAdPtype s = .next ((s.setArp { s.arp with
      protocolType := some (be16 (s.arpInput.getD 2 0#8) (s.arpInput.getD 3 0#8)) }).reach .arp 4 4) := by
  rw [execAdPtype, hat.inDecoder_eq, payRead16_inside hlen]

theorem execAdHlen_reached (hat : s.ArpAt 4 c) (hlen : 5 ≤ s.arpInput.length) :
    execAdHlen s = .next ((s.setArp { s.arp with hardwareLen := some (s.arpInput.getD 4 0#8) }).reach .arp 5 5) := by
  rw [execAdHlen, hat.inDecoder_eq, payRead8_inside hlen]

theorem execAdPlen_reached (hat : s.ArpAt 5 c) (hlen : 6 ≤ s.arpInput.length) :
    execAdPlen s = .next ((s.setArp { s.arp with protocolLen := some (s.arpInput.getD 5 0#8) }).reach .arp 6 6) := by
  rw [execAdPlen, hat.inDecoder_eq, payRead8_inside hlen]

theorem execAdOper_reached (hat : s.ArpAt 6 c) (hlen : 8 ≤ s.arpInput.length) :
    execAdOper s = .next ((s.setArp { s.arp with
      operation := some (be16 (s.arpInput.getD 6 0#8) (s.arpInput.getD 7 0#8)) }).reach .arp 8 7) := by
  rw [execAdOper, hat.inDecoder_eq, payRead16_inside hlen]

end

/-- Settles O36: each step stores the input's bytes at its offset, and a 16-bit value's number is that of its two bytes (30 R80). -/
theorem adFixedHeaderStepsReadTheirBytes : Obligations.AdFixedHeaderStepsReadTheirBytes := by
  intro s c _ h8
  refine ⟨fun hat => ?htype, fun hat => ?ptype, fun hat => ?hlen, fun hat => ?plen, fun hat => ?oper⟩
  case htype => exact ⟨_, be16_toNat _ _, execAdHtype_reached hat (by omega)⟩
  case ptype => exact ⟨_, be16_toNat _ _, execAdPtype_reached hat (by omega)⟩
  case hlen => exact execAdHlen_reached hat (by omega)
  case plen => exact execAdPlen_reached hat (by omega)
  case oper => exact ⟨_, be16_toNat _ _, execAdOper_reached hat h8⟩

end Sys2Proof.Machine
end

section
/-! The texts of DOTTED (43 R159, 30 R97), from what a byte's decimal numeral looks like, and the name of a hardware type
(43 R156). -/

namespace Sys2Proof.Machine

/-! ## Decimal digits -/

theorem decDigit_value {n : Nat} (h : n < 10) : (decDigit n).toNat - 48 = n := by
  interval_cases n <;> rfl

theorem decDigit_mem {n : Nat} (h : n < 10) : decDigit n ∈ "0123456789".toList := by
  interval_cases n <;> decide

theorem decDigit_ne_zero {n : Nat} (hpos : 0 < n) (h : n < 10) : decDigit n ≠ '0' := by
  intro hzero
  have value := decDigit_value h
  rw [hzero] at value
  exact hpos.ne value

/-! ## The numeral of a byte -/

/-- A byte's numeral has one, two or three digits; those before the last exist only where the first of them is not zero. -/
theorem dec_shape (b : Byte) :
    (∃ x, x < 10 ∧ b.toNat = x ∧ dec b = [decDigit x]) ∨
    (∃ x y, 0 < x ∧ x < 10 ∧ y < 10 ∧ b.toNat = 10 * x + y ∧ dec b = [decDigit x, decDigit y]) ∨
    (∃ x y z, 0 < x ∧ x < 10 ∧ y < 10 ∧ z < 10 ∧ b.toNat = 10 * (10 * x + y) + z ∧
      dec b = [decDigit x, decDigit y, decDigit z]) := by
  have hb : b.toNat < 256 := b.isLt
  unfold dec
  split
  · exact .inl ⟨_, ‹_›, rfl, rfl⟩
  · split
    · exact .inr (.inl ⟨_, _, by omega, by omega, by omega, by omega, rfl⟩)
    · exact .inr (.inr ⟨_, _, _, by omega, by omega, by omega, by omega, by omega, rfl⟩)

theorem dec_value (b : Byte) : (dec b).foldl (fun acc ch => 10 * acc + (ch.toNat - 48)) 0 = b.toNat := by
  obtain ⟨x, hx, hb, hd⟩ | ⟨x, y, -, hx, hy, hb, hd⟩ | ⟨x, y, z, -, hx, hy, hz, hb, hd⟩ := dec_shape b
  · simp [hb, hd, decDigit_value hx]
  · simp [hb, hd, decDigit_value hx, decDigit_value hy]
  · simp [hb, hd, decDigit_value hx, decDigit_value hy, decDigit_value hz]

theorem dec_digits (b : Byte) : ∀ ch ∈ dec b, ch ∈ "0123456789".toList := by
  obtain ⟨x, hx, -, hd⟩ | ⟨x, y, -, hx, hy, -, hd⟩ | ⟨x, y, z, -, hx, hy, hz, -, hd⟩ := dec_shape b <;>
    simp only [hd, List.forall_mem_cons]
  · exact ⟨decDigit_mem hx, List.forall_mem_nil _⟩
  · exact ⟨decDigit_mem hx, decDigit_mem hy, List.forall_mem_nil _⟩
  · exact ⟨decDigit_mem hx, decDigit_mem hy, decDigit_mem hz, List.forall_mem_nil _⟩

theorem dec_length (b : Byte) : 1 ≤ (dec b).length ∧ (dec b).length ≤ 3 := by
  obtain ⟨_, -, -, hd⟩ | ⟨_, _, -, -, -, -, hd⟩ | ⟨_, _, _, -, -, -, -, -, hd⟩ := dec_shape b <;> simp [hd]

theorem dec_ne_nil (b : Byte) : dec b ≠ [] := List.ne_nil_of_length_pos (dec_length b).1

/-- 30 R97: no leading zero. A numeral of one digit that begins with `0` is `0`, and a longer one begins with another digit. -/
theorem dec_eq_zero_of_head (b : Byte) (h : (dec b).head? = some '0') : dec b = ['0'] := by
  obtain ⟨x, -, -, hd⟩ | ⟨x, y, hpos, hx, -, -, hd⟩ | ⟨x, y, z, hpos, hx, -, -, -, hd⟩ := dec_shape b <;>
    rw [hd, List.head?_cons, Option.some_inj] at h
  · rw [hd, h]
  · exact absurd h (decDigit_ne_zero hpos hx)
  · exact absurd h (decDigit_ne_zero hpos hx)

/-! ## What the two instructions answer -/

theorem dottedText_four (a b c d : Byte) :
    dottedText [a, b, c, d] = some (dec a ++ ['.'] ++ dec b ++ ['.'] ++ dec c ++ ['.'] ++ dec d) := by
  simp [dottedText]

theorem execDotted_four (s : State) (a b c d : Byte) :
    execDotted (.lit [a, b, c, d]) s =
      .next (s.setAnswer (.text (dec a ++ ['.'] ++ dec b ++ ['.'] ++ dec c ++ ['.'] ++ dec d))) := by
  rw [execDotted, seqValue, dottedText_four]

theorem hwName_one : hwName 1 = .named .ethernet := if_pos rfl

theorem hwName_of_ne_one {ht : Half} (h : ht ≠ 1) : hwName ht = .raw ht := if_neg h

theorem execAvHwname_of_hardwareType {s : State} {ht : Half} (hok : s.arpStatus = .ok) (hht : s.arp.hardwareType = some ht) :
    execAvHwname s = .next (s.setAnswer (.typeName (hwName ht) ht)) := by
  rw [execAvHwname, validArp_ok hok, hht, need_some]

/-- Settles O51: the four numerals are those of `dec`. -/
theorem dottedWritesFourNumerals : Obligations.DottedWritesFourNumerals := by
  intro s a b c d
  refine ⟨dec a, dec b, dec c, dec d, execDotted_four s a b c d, fun x n hn => ?_, ?_⟩
  · have hmap : (x, n) ∈ [a, b, c, d].map fun y => (y, dec y) := hn
    obtain ⟨y, -, hy⟩ := List.mem_map.1 hmap
    obtain ⟨rfl, rfl⟩ := Prod.mk.inj hy
    exact ⟨dec_value y, dec_digits y, dec_ne_nil y, dec_eq_zero_of_head y⟩
  · have ha := dec_length a
    have hb := dec_length b
    have hc := dec_length c
    have hd := dec_length d
    simp only [List.length_append, List.length_singleton]
    omega

/-- Settles O44: the view answers the register's name, which is `Ethernet` for 1 and the number for every other value. -/
theorem hardwareTypeNameNamesOnlyEthernet : Obligations.HardwareTypeNameNamesOnlyEthernet := by
  intro s ht hok hht
  have answered : exec .avHwname s = .next (s.setAnswer (.typeName (hwName ht) ht)) := execAvHwname_of_hardwareType hok hht
  constructor
  · rintro rfl
    rwa [hwName_one] at answered
  · intro hne
    rwa [hwName_of_ne_one hne] at answered

end Sys2Proof.Machine
end

section
/-! The code points (30 R83 to R88): what each encodes, what each window's bits decode to, and what the code points of the
ARP windows answer. -/

namespace Sys2Proof.Machine

open Sys2Proof.Laws

/-! ## The encoding and the decoding of a code point -/

theorem decode_pair (names : List (Half × Symbol)) (w : Window) (hi lo : Byte) :
    decode names w [hi, lo] = decodeHalf names w (be16 hi lo) := rfl

theorem decode_halfBytes (names : List (Half × Symbol)) (w : Window) (v : Half) :
    decode names w (halfBytes v) = decodeHalf names w v := by
  rw [halfBytes, decode_pair, be16_hiByte_loByte]

theorem halfBytes_be16 (hi lo : Byte) : halfBytes (be16 hi lo) = [hi, lo] := by
  rw [halfBytes, hiByte_be16, loByte_be16]

theorem encode_of_encodeHalf {i : Instr} {w : Window} {v : Half} (h : encodeHalf i = some (w, v)) :
    encode i = some (w, halfBytes v) := by
  rw [encode, h, Option.map_some]

/-- Every code point stands for 16 bits of one window (30 R83 to R87). -/
theorem encodeHalf_of_isCodePoint {i : Instr} (h : i.isCodePoint = true) : ∃ w v, encodeHalf i = some (w, v) := by
  cases i with
  | cpEth12Vlan | cpEth12Plain | cpEtypeArp | cpEtypeLength | cpEtypeOther | cpHtypeEthernet | cpHtypeOther | cpPtypeIpv4
  | cpPtypeArp | cpPtypeOther | cpOperRequest | cpOperReply | cpOperOther => exact ⟨_, _, rfl⟩
  | _ => cases h

/-- The round trip of every instruction: a code point's by its own law, and no bits select any other row (30 R88). -/
theorem decode_encode : ∀ i : Instr, RoundTrip.Statement i
  | .cpEth12Vlan => RoundTrip.cpEth12Vlan
  | .cpEth12Plain v => RoundTrip.cpEth12Plain v
  | .cpEtypeArp => RoundTrip.cpEtypeArp
  | .cpEtypeLength v => RoundTrip.cpEtypeLength v
  | .cpEtypeOther v => RoundTrip.cpEtypeOther v
  | .cpHtypeEthernet => RoundTrip.cpHtypeEthernet
  | .cpHtypeOther v => RoundTrip.cpHtypeOther v
  | .cpPtypeIpv4 => RoundTrip.cpPtypeIpv4
  | .cpPtypeArp => RoundTrip.cpPtypeArp
  | .cpPtypeOther v => RoundTrip.cpPtypeOther v
  | .cpOperRequest => RoundTrip.cpOperRequest
  | .cpOperReply => RoundTrip.cpOperReply
  | .cpOperOther v => RoundTrip.cpOperOther v
  | .demux | .demuxSel | .frameDecode | .fdLenchk | .fdMacdst | .fdMacsrc | .fdVlanpeek | .fdVlanchk | .fdVlantag | .fdEtype
  | .fdPayload | .fdLenwarn | .macFmt _ | .arpDecode _ | .adLenchk | .adHdrchk | .adHtype | .adPtype | .adHlen | .adPlen
  | .adOper | .adSha | .adSpa | .adTha | .adTpa | .adTrunc | .adTrail | .avHwname | .avPtname | .hexjoin _ | .dotted _
  | .avSpaStr | .avTpaStr | .avShaStr | .avThaStr | .avOpclass => fun _ _ _ _ _ h => nomatch h

/-- Settles O2: a code point has an encoding of two bytes, and the round trip gives it back. -/
theorem codePointsDecodeWhatTheyEncode : Obligations.CodePointsDecodeWhatTheyEncode := by
  intro names i hnames hcp hwf
  obtain ⟨w, v, hv⟩ := encodeHalf_of_isCodePoint hcp
  have hencode : encode i = some (w, [hiByte v, loByte v]) := encode_of_encodeHalf hv
  exact ⟨w, hiByte v, loByte v, hencode, decode_encode i names w _ hnames hwf hencode⟩

/-! ## Exactly one code point for each value of a window -/

section
variable {names : List (Half × Symbol)}

/-- 00 R9: the table is a finite map. -/
theorem nodup_of_namesOk (hnames : Config.namesOk names = true) : (names.map Prod.fst).Nodup := by
  simp only [Config.namesOk, Bool.and_eq_true, decide_eq_true_eq] at hnames
  obtain ⟨⟨⟨⟨hnodup, -⟩, -⟩, -⟩, -⟩ := hnames
  exact hnodup

/-- A value without a symbol is no key of the table. -/
theorem not_key_of_symbolOf_none (hnames : Config.namesOk names = true) {v : Half} (h : symbolOf names v = none) :
    v ∉ names.map Prod.fst := by
  intro hv
  obtain ⟨⟨k, sym⟩, hmem, rfl⟩ := List.mem_map.1 hv
  rw [symbolOf_of_mem (nodup_of_namesOk hnames) hmem] at h
  cases h

/-- Whatever the bits of a window decode to is a code point whose bits they are (30 R83 to R87), under an admissible table a
well-formed one. -/
theorem decodeHalf_sound {w : Window} {v : Half} {i : Instr} (h : decodeHalf names w v = .ok i) :
    i.isCodePoint = true ∧ encodeHalf i = some (w, v) ∧ (Config.namesOk names = true → i.wf names = true) := by
  cases w with
  | eth12 =>
    simp only [decodeHalf] at h
    split at h
    case isTrue hv => cases h; exact ⟨rfl, by rw [hv]; rfl, fun _ => rfl⟩
    case isFalse hv => cases h; exact ⟨rfl, rfl, fun _ => bne_iff_ne.2 hv⟩
  | etype =>
    simp only [decodeHalf] at h
    split at h
    case isTrue hv => cases h; exact ⟨rfl, by rw [hv]; rfl, fun _ => rfl⟩
    case isFalse hv =>
      split at h
      case isTrue hle => cases h; exact ⟨rfl, rfl, fun _ => decide_eq_true hle⟩
      case isFalse hle =>
        cases h
        have hlt : Const.lenThreshold < v.toNat := Nat.lt_of_not_le hle
        exact ⟨rfl, rfl, fun _ => Bool.and_eq_true_iff.2 ⟨decide_eq_true hlt, bne_iff_ne.2 hv⟩⟩
  | arpHtype =>
    simp only [decodeHalf] at h
    split at h
    case isTrue hv => cases h; exact ⟨rfl, by rw [hv]; rfl, fun _ => rfl⟩
    case isFalse hv => cases h; exact ⟨rfl, rfl, fun _ => bne_iff_ne.2 hv⟩
  | arpPtype =>
    simp only [decodeHalf] at h
    split at h
    case isTrue hv => cases h; exact ⟨rfl, by rw [hv]; rfl, fun _ => rfl⟩
    case isFalse =>
      split at h
      case isTrue hv => cases h; exact ⟨rfl, by rw [hv]; rfl, fun _ => rfl⟩
      case isFalse =>
        split at h
        case h_1 hsym =>
          cases h
          exact ⟨rfl, rfl, fun hnames => by simpa [Instr.wf] using not_key_of_symbolOf_none hnames hsym⟩
        case h_2 => cases h
  | arpOper =>
    simp only [decodeHalf] at h
    split at h
    case isTrue hv => cases h; exact ⟨rfl, by rw [hv]; rfl, fun _ => rfl⟩
    case isFalse h1 =>
      split at h
      case isTrue hv => cases h; exact ⟨rfl, by rw [hv]; rfl, fun _ => rfl⟩
      case isFalse h2 => cases h; exact ⟨rfl, rfl, fun _ => Bool.and_eq_true_iff.2 ⟨bne_iff_ne.2 h1, bne_iff_ne.2 h2⟩⟩

theorem decodeHalf_arpPtype_of_not_key {v : Half} (h : v ≠ Const.etypeIpv4 → v ≠ Const.etypeArp → v ∉ names.map Prod.fst) :
    ∃ i, decodeHalf names .arpPtype v = .ok i := by
  simp only [decodeHalf]
  split
  case isTrue => exact ⟨_, rfl⟩
  case isFalse h4 =>
    split
    case isTrue => exact ⟨_, rfl⟩
    case isFalse ha => rw [symbolOf_eq_none (h h4 ha)]; exact ⟨_, rfl⟩

/-- Every 16 bits of a window select a code point, but for the keys added to the table in the ARP.PTYPE window (log 15). -/
theorem decodeHalf_total {w : Window} {v : Half}
    (h : w = .arpPtype → v ≠ Const.etypeIpv4 → v ≠ Const.etypeArp → v ∉ names.map Prod.fst) :
    ∃ i, decodeHalf names w v = .ok i := by
  cases w with
  | arpPtype => exact decodeHalf_arpPtype_of_not_key (h rfl)
  | eth12 | arpHtype => simp only [decodeHalf]; split <;> exact ⟨_, rfl⟩
  | etype | arpOper =>
    simp only [decodeHalf]
    split
    · exact ⟨_, rfl⟩
    · split <;> exact ⟨_, rfl⟩

end

/-- Settles O3: the decoder answers a code point with these bits, and by the round trip any other instruction with them is
it. -/
theorem everyWindowValueSelectsExactlyOneCodePoint : Obligations.EveryWindowValueSelectsExactlyOneCodePoint := by
  intro names w hi lo hnames hkey
  obtain ⟨i, hi'⟩ := decodeHalf_total hkey
  obtain ⟨hcp, henc, hwf⟩ := decodeHalf_sound hi'
  have hencode : encode i = some (w, [hi, lo]) := by
    rw [encode_of_encodeHalf henc, halfBytes_be16]
  refine ⟨i, hi', hcp, hwf hnames, hencode, fun j hj hencj => ?_⟩
  have hdec : decode names w [hi, lo] = .ok j := decode_encode j names w _ hnames hj hencj
  rw [decode_pair, hi'] at hdec
  cases hdec
  rfl

/-- Settles O1: thirteen decodings of closed words. -/
theorem tableWordsDecodeToTheirRows : Obligations.TableWordsDecodeToTheirRows := by
  unfold Obligations.TableWordsDecodeToTheirRows
  decide

/-! ## What the code points of the ARP windows answer -/

theorem hwNaming_of_ne_one {v : Half} (h : v ≠ 1) : hwNaming v = .naming (.raw v) .rawBytes := by
  rw [hwNaming, hwName_of_ne_one h]
  rfl

theorem ptName_of_symbolOf {names : List (Half × Symbol)} {v : Half} {sym : Symbol} (h : symbolOf names v = some sym) :
    ptName names v = .named sym := by
  rw [ptName, h]

theorem ptName_of_not_key {names : List (Half × Symbol)} {v : Half} (h : v ∉ names.map Prod.fst) :
    ptName names v = .raw v := by
  rw [ptName, symbolOf_eq_none h]

/-- Under an admissible table 0x0800 and nothing else is named `IPv4` (10 R47). -/
theorem ptName_ipv4_iff {names : List (Half × Symbol)} (hnames : Config.namesOk names = true) {v : Half} :
    ptName names v = .named .ipv4 ↔ v = Const.etypeIpv4 := by
  constructor
  · intro hname
    refine eq_ipv4_of_symbolOf hnames ?_
    cases hsym : symbolOf names v with
    | none => rw [ptName, hsym] at hname; cases hname
    | some sym => rw [ptName, hsym] at hname; cases hname; rfl
  · rintro rfl
    exact ptName_of_symbolOf (symbolOf_ipv4 hnames)

theorem operKind_of_neither {v : Half} (h1 : v ≠ Const.opRequest) (h2 : v ≠ Const.opReply) : operKind v = .neither := by
  rw [operKind, if_neg h1, if_neg h2]

/-- 44 R180: the class of a packet is among those that its operation leaves. -/
theorem classify_reachable (operation : Half) (sha spa tha tpa : List Byte) :
    classify operation sha spa tha tpa ∈ (operKind operation).reachable := by
  have common : ∀ k : OperKind, OpClass.announcement ∈ k.reachable ∧ OpClass.gratuitous ∈ k.reachable := by
    intro k
    cases k <;> decide
  unfold classify
  split
  case isTrue => exact (common _).1
  split
  case isTrue => exact (common _).2
  split
  case isTrue h =>
    rw [operKind, if_pos h.1]
    decide
  split
  case isTrue hreq =>
    rw [operKind, if_pos hreq]
    decide
  case isFalse hreq =>
    rw [operKind, if_neg hreq]
    split <;> decide

/-- Settles O41: each code point answers the decision of its value; the classes by the four conditions in order. -/
theorem arpCodePointsDecideNamesAndClasses : Obligations.ArpCodePointsDecideNamesAndClasses := by
  refine ⟨fun s hnames => ⟨rfl, fun v hv => ?htype, ?ipv4, ?arp, fun v hv => ?ptype, rfl, rfl, fun v h1 h2 => ?oper⟩,
    classify_reachable⟩
  case htype =>
    change execCpHtypeOther v s = _
    rw [execCpHtypeOther, hwNaming_of_ne_one hv]
    rfl
  case ipv4 =>
    change execCpPtypeIpv4 s = _
    rw [execCpPtypeIpv4, protoNaming, ptName_of_symbolOf (symbolOf_ipv4 hnames)]
    rfl
  case arp =>
    change execCpPtypeArp s = _
    rw [execCpPtypeArp, protoNaming, ptName_of_symbolOf (symbolOf_arp hnames)]
    rfl
  case ptype =>
    change execCpPtypeOther v s = _
    rw [execCpPtypeOther, protoNaming, ptName_of_not_key hv]
    rfl
  case oper =>
    change execCpOperOther v s = _
    rw [execCpOperOther, operDecision, operKind_of_neither h1 h2]
    rfl

/-! ## The type-name views and the code points of their fields -/

/-- Running the code point that a hardware type selects answers that type's decision. -/
theorem exec_of_decode_arpHtype {s : State} {v : Half} {i : Instr} (h : decodeHalf s.cfg.etypeNames .arpHtype v = .ok i) :
    exec i s = .next (s.setAnswer (hwNaming v)) := by
  simp only [decodeHalf] at h
  split at h
  case isTrue hv => cases h; rw [hv]; rfl
  case isFalse => cases h; rfl

/-- Running the code point that a protocol type selects answers that type's decision by the table. -/
theorem exec_of_decode_arpPtype {s : State} {v : Half} {i : Instr} (h : decodeHalf s.cfg.etypeNames .arpPtype v = .ok i) :
    exec i s = .next (s.setAnswer (protoNaming s.cfg.etypeNames v)) := by
  simp only [decodeHalf] at h
  split at h
  case isTrue hv => cases h; rw [hv]; rfl
  case isFalse =>
    split at h
    case isTrue hv => cases h; rw [hv]; rfl
    case isFalse =>
      split at h
      · cases h; rfl
      · cases h

theorem execAvPtname_of_protocolType {s : State} {pt : Half} (hok : s.arpStatus = .ok) (hpt : s.arp.protocolType = some pt) :
    execAvPtname s = .next (s.setAnswer (.typeName (ptName s.cfg.etypeNames pt) pt)) := by
  rw [execAvPtname, validArp_ok hok, hpt, need_some]

/-- Settles O42: view and code point answer the name of the same field. -/
theorem typeNameViewsAgreeWithTheirCodePoints : Obligations.TypeNameViewsAgreeWithTheirCodePoints := by
  intro s ht pt i j _ hok hht hpt hi hj
  rw [decode_halfBytes] at hi hj
  exact ⟨_, _, _, _, execAvHwname_of_hardwareType hok hht, exec_of_decode_arpHtype hi, execAvPtname_of_protocolType hok hpt,
    exec_of_decode_arpPtype hj⟩

/-- Settles O45: the name is the table's symbol of the field, or the number when the field is no key. -/
theorem protocolTypeNameFollowsTheTable : Obligations.ProtocolTypeNameFollowsTheTable := by
  intro s pt hnames hok hpt
  refine ⟨_, execAvPtname_of_protocolType hok hpt, ?ipv4, ?arp, fun sym hmem => ?key, ptName_of_not_key,
    (ptName_ipv4_iff hnames).1⟩
  case ipv4 => exact (ptName_ipv4_iff hnames).2
  case arp => rintro rfl; exact ptName_of_symbolOf (symbolOf_arp hnames)
  case key => exact ptName_of_symbolOf (symbolOf_of_mem (nodup_of_namesOk hnames) hmem)

end Sys2Proof.Machine
end

section
/-! Everything that a step of FrameDecoder, a step of ArpDecoder, and an instruction that only answers can do if it answers
a next state: three inversions, from which the invariants and the failure rules follow without a look into a step. -/

namespace Sys2Proof.Machine

/-! ## What the written header registers say of the frame -/

section
variable {raw : Frame} {h : Header}

theorem HeaderMatches.write_macDest (hm : HeaderMatches raw h) (hlen : 6 ≤ raw.len) :
    HeaderMatches raw { h with macDest := some (raw.macAt 0) } :=
  { hm with macDest := by rintro _ ⟨⟩; exact raw.macAt_toList 0 hlen }

theorem HeaderMatches.write_macSrc (hm : HeaderMatches raw h) (hlen : 12 ≤ raw.len) :
    HeaderMatches raw { h with macSrc := some (raw.macAt 6) } :=
  { hm with macSrc := by rintro _ ⟨⟩; exact raw.macAt_toList 6 hlen }

theorem HeaderMatches.write_vlanPresent (hm : HeaderMatches raw h) {b : Bool} (hb : b = true ↔ taggedBytes raw.bytes) :
    HeaderMatches raw { h with vlanPresent := some b } :=
  { hm with vlanPresent := by rintro _ ⟨⟩; exact hb }

theorem HeaderMatches.write_vlanTag (hm : HeaderMatches raw h) (htag : taggedBytes raw.bytes) (hlen : 16 ≤ raw.len) :
    HeaderMatches raw { h with vlanTag := some (be32 (raw.byte 12) (raw.byte 13) (raw.byte 14) (raw.byte 15)) } :=
  { hm with vlanTag := by rintro _ ⟨⟩; exact ⟨htag, (be32At_raw raw 12 hlen).symm⟩ }

theorem HeaderMatches.write_etherType_tagged (hm : HeaderMatches raw h) (htag : taggedBytes raw.bytes) (hlen : 18 ≤ raw.len) :
    HeaderMatches raw { h with etherType := some (be16 (raw.byte 16) (raw.byte 17)) } :=
  { hm with
    etherType := by
      rintro _ ⟨⟩
      exact ⟨fun _ => (be16At_raw raw 16 hlen).symm, fun hn => absurd htag hn⟩ }

theorem HeaderMatches.write_etherType_untagged (hm : HeaderMatches raw h) (htag : ¬ taggedBytes raw.bytes) {v : Half}
    (hv : v.toNat = be16At raw.bytes 12) : HeaderMatches raw { h with etherType := some v } :=
  { hm with
    etherType := by
      rintro _ ⟨⟩
      exact ⟨fun ht => absurd ht htag, fun _ => hv⟩ }

theorem HeaderMatches.write_payload (hm : HeaderMatches raw h) {tagged : Bool} (htag : tagged = true ↔ taggedBytes raw.bytes)
    (hlen : headerLength tagged ≤ raw.len) :
    HeaderMatches raw { h with hdrLen := some (headerLength tagged), payloadOff := some (headerLength tagged),
                               payloadLen := some (raw.len - headerLength tagged) } :=
  { hm with
    hdrLen := by
      rintro _ ⟨⟩
      rw [← htag]
      cases tagged
      · exact ⟨fun h => absurd h Bool.false_ne_true, fun _ => rfl⟩
      · exact ⟨fun _ => rfl, fun h => absurd rfl h⟩
    payload := by
      rintro _ ⟨⟩
      exact ⟨rfl, _, rfl, Nat.add_sub_cancel' hlen⟩ }

theorem HeaderMatches.write_wLenMismatch (hm : HeaderMatches raw h) (b : Bool) :
    HeaderMatches raw { h with wLenMismatch := some b } :=
  { hm with }

/-- A header without a value says nothing. -/
theorem headerMatches_cleared (raw : Frame) : HeaderMatches raw Header.cleared := by
  constructor <;> rintro _ ⟨⟩

end

/-! ## FrameDecoder's steps -/

/-- Everything that a step of a running FrameDecoder can do: write header registers that say what the frame says, if the
others do, and move the cursor; or fail hard. -/
inductive FrameMove (s : State) : State → Prop where
  | goesOn (h : Header) (c n : Nat) (faithful : HeaderMatches s.raw s.hdr → HeaderMatches s.raw h) :
      FrameMove s ((s.setHdr h).reach .frame c n)
  | fails : FrameMove s (raiseTooShort .frame s)

/-- An operation that runs only in FrameDecoder and does what a step of it can do. -/
def MovesFrame (f : State → Out) : Prop := ∀ s, Ensures (f s) fun t => s.frameCursor = true ∧ FrameMove s t

theorem frameCursor_of_cursor {s : State} {c n : Nat} (h : s.cursor = some ⟨.frame, c, n⟩) : s.frameCursor = true := by
  rw [State.frameCursor, h]
  rfl

theorem arpCursor_of_cursor {s : State} {c n : Nat} (h : s.cursor = some ⟨.arp, c, n⟩) : s.arpCursor = true := by
  rw [State.arpCursor, h]
  rfl

section
variable {s : State}

/-- A step that only moves the cursor. -/
theorem FrameMove.stay (c n : Nat) : FrameMove s (s.reach .frame c n) := .goesOn s.hdr c n id

theorem ensures_frameStep {n : Nat} {k : Nat → Out} (h : ∀ c, Ensures (k c) (FrameMove s)) :
    Ensures (inDecoder .frame n s k) fun t => s.frameCursor = true ∧ FrameMove s t :=
  ensures_inDecoder fun c hcur _ t ht => ⟨frameCursor_of_cursor hcur, h c t ht⟩

end

theorem execFdLenchk_moves : MovesFrame execFdLenchk := fun _ =>
  ensures_frameStep fun _ => ensures_ite (fun _ => ensures_next .fails) fun _ => ensures_next (.stay _ _)

theorem execFdMacdst_moves : MovesFrame execFdMacdst := fun _ =>
  ensures_frameStep fun _ => ensures_memMac fun hlen => ensures_next (.goesOn _ _ _ fun hm => hm.write_macDest hlen)

theorem execFdMacsrc_moves : MovesFrame execFdMacsrc := fun _ =>
  ensures_frameStep fun _ => ensures_memMac fun hlen => ensures_next (.goesOn _ _ _ fun hm => hm.write_macSrc hlen)

theorem execFdVlanpeek_moves : MovesFrame execFdVlanpeek := fun s =>
  ensures_frameStep fun _ => ensures_memRead16 fun hlen =>
    ensures_next (.goesOn _ _ _ fun hm => hm.write_vlanPresent (s.raw.tagged_iff hlen))

theorem execFdVlanchk_moves : MovesFrame execFdVlanchk := fun _ =>
  ensures_frameStep fun _ => ensures_need fun _ _ =>
    ensures_ite (fun _ => ensures_next .fails) fun _ => ensures_next (.stay _ _)

theorem execFdVlantag_moves : MovesFrame execFdVlantag := fun _ =>
  ensures_frameStep fun _ => ensures_need fun _ hvlan =>
    ensures_ite (fun htag => ensures_memRead32 fun hlen =>
        ensures_next (.goesOn _ _ _ fun hm => hm.write_vlanTag ((hm.vlanPresent _ hvlan).1 htag) hlen))
      fun _ => ensures_next (.stay _ _)

theorem execFdEtype_moves : MovesFrame execFdEtype := fun s =>
  ensures_frameStep fun _ => ensures_need fun _ hvlan =>
    ensures_ite (fun htag => ensures_memRead16 fun hlen =>
        ensures_next (.goesOn _ _ _ fun hm => hm.write_etherType_tagged ((hm.vlanPresent _ hvlan).1 htag) hlen))
      fun htag => ensures_memRead16 fun hlen =>
        ensures_next (.goesOn _ _ _ fun hm =>
          hm.write_etherType_untagged (mt (hm.vlanPresent _ hvlan).2 htag) (be16At_raw s.raw 12 hlen).symm)

theorem execFdPayload_moves : MovesFrame execFdPayload := fun _ =>
  ensures_frameStep fun _ => ensures_need fun _ hvlan =>
    ensures_ite (fun hlen => ensures_next (.goesOn _ _ _ fun hm => hm.write_payload (hm.vlanPresent _ hvlan) hlen))
      fun _ => ensures_fault _

theorem lenwarnOf_frameMove (etherType : Half) (off : Nat) (s : State) : Ensures (lenwarnOf etherType off s) (FrameMove s) :=
  ensures_need fun _ _ => ensures_next (.goesOn _ _ _ fun hm => hm.write_wLenMismatch _)

theorem execFdLenwarn_moves : MovesFrame execFdLenwarn := fun s =>
  ensures_frameStep fun c => ensures_need fun et _ => lenwarnOf_frameMove et c s

theorem frameSteps_move : ∀ f ∈ frameSteps, MovesFrame f := by
  simp only [frameSteps, List.forall_mem_cons]
  exact ⟨execFdLenchk_moves, execFdMacdst_moves, execFdMacsrc_moves, execFdVlanpeek_moves, execFdVlanchk_moves,
    execFdVlantag_moves, execFdEtype_moves, execFdPayload_moves, execFdLenwarn_moves, List.forall_mem_nil _⟩

/-- The four steps that CP.ETH12.VLAN carries out (30 R83). -/
def taggedSteps : List (State → Out) := [execFdVlanchk, execFdVlantag, execFdEtype, execFdPayload]

theorem taggedSteps_subset : ∀ f ∈ taggedSteps, f ∈ frameSteps := by
  simp [taggedSteps, frameSteps]

/-! ## ArpDecoder's steps -/

/-- Everything that a step of a running ArpDecoder can do: write record registers and move the cursor, or fail hard. -/
inductive ArpMove (s : State) : State → Prop where
  | goesOn (a : ArpRecord) (c n : Nat) : ArpMove s ((s.setArp a).reach .arp c n)
  | fails : ArpMove s (raiseTooShort .arp s)

/-- An operation that runs only in ArpDecoder and does what a step of it can do. -/
def MovesArp (f : State → Out) : Prop := ∀ s, Ensures (f s) fun t => s.arpCursor = true ∧ ArpMove s t

theorem ensures_arpStep {s : State} {n : Nat} {k : Nat → Out} (h : ∀ c, Ensures (k c) (ArpMove s)) :
    Ensures (inDecoder .arp n s k) fun t => s.arpCursor = true ∧ ArpMove s t :=
  ensures_inDecoder fun c hcur _ t ht => ⟨arpCursor_of_cursor hcur, h c t ht⟩

theorem execAdLenchk_moves : MovesArp execAdLenchk := fun _ =>
  ensures_arpStep fun _ => ensures_next (.goesOn _ _ _)

theorem execAdHdrchk_moves : MovesArp execAdHdrchk := fun s =>
  ensures_arpStep fun _ => ensures_ite (fun _ => ensures_next .fails) fun _ => ensures_next (.goesOn s.arp _ _)

theorem execAdHtype_moves : MovesArp execAdHtype := fun _ =>
  ensures_arpStep fun _ => ensures_memRead16 fun _ => ensures_next (.goesOn _ _ _)

theorem execAdPtype_moves : MovesArp execAdPtype := fun _ =>
  ensures_arpStep fun _ => ensures_memRead16 fun _ => ensures_next (.goesOn _ _ _)

theorem execAdHlen_moves : MovesArp execAdHlen := fun _ =>
  ensures_arpStep fun _ => ensures_memRead8 fun _ => ensures_next (.goesOn _ _ _)

theorem execAdPlen_moves : MovesArp execAdPlen := fun _ =>
  ensures_arpStep fun _ => ensures_memRead8 fun _ => ensures_next (.goesOn _ _ _)

theorem execAdOper_moves : MovesArp execAdOper := fun _ =>
  ensures_arpStep fun _ => ensures_memRead16 fun _ => ensures_next (.goesOn _ _ _)

theorem execAdSha_moves : MovesArp execAdSha := fun _ =>
  ensures_arpStep fun _ => ensures_need fun _ _ => ensures_next (.goesOn _ _ _)

theorem execAdSpa_moves : MovesArp execAdSpa := fun _ =>
  ensures_arpStep fun _ => ensures_need fun _ _ => ensures_next (.goesOn _ _ _)

theorem execAdTha_moves : MovesArp execAdTha := fun _ =>
  ensures_arpStep fun _ => ensures_need fun _ _ => ensures_next (.goesOn _ _ _)

theorem execAdTpa_moves : MovesArp execAdTpa := fun _ =>
  ensures_arpStep fun _ => ensures_need fun _ _ => ensures_next (.goesOn _ _ _)

theorem execAdTrunc_moves : MovesArp execAdTrunc := fun _ =>
  ensures_arpStep fun _ => ensures_need fun _ _ => ensures_next (.goesOn _ _ _)

theorem execAdTrail_moves : MovesArp execAdTrail := fun _ =>
  ensures_arpStep fun _ => ensures_need fun _ _ => ensures_next (.goesOn _ _ _)

theorem arpSteps_move : ∀ f ∈ arpSteps, MovesArp f := by
  simp only [arpSteps, List.forall_mem_cons]
  exact ⟨execAdLenchk_moves, execAdHdrchk_moves, execAdHtype_moves, execAdPtype_moves, execAdHlen_moves, execAdPlen_moves,
    execAdOper_moves, execAdSha_moves, execAdSpa_moves, execAdTha_moves, execAdTpa_moves, execAdTrunc_moves,
    execAdTrail_moves, List.forall_mem_nil _⟩

end Sys2Proof.Machine
end

section
/-! `Guarded`: an operation answers only next states with a property, and never stops at a read past the end of the frame
(20 R57); one rule for each shared operation. By these rules, the views, the helpers and the code points of the ARP windows
change the answer only. -/

namespace Sys2Proof.Machine

/-! ## Operations that never read past the end -/

/-- Every next state that the operation answers satisfies `P`, and it does not stop at a read past the end of the frame. -/
inductive Guarded (P : State → Prop) : Out → Prop where
  | next {t : State} (h : P t) : Guarded P (.next t)
  | fault {r : Fault} (h : ∀ addr count, r ≠ .outOfFrame addr count) : Guarded P (.fault r)
  | refused (r : Refusal) : Guarded P (.refused r)

section
variable {α : Type} {s : State} {P Q : State → Prop}

theorem Guarded.ensures {o : Out} (h : Guarded P o) : Ensures o P := by
  rintro t rfl
  cases h with
  | next h => exact h

theorem Guarded.ne_outOfFrame {o : Out} (h : Guarded P o) (addr count : Nat) : o ≠ .fault (.outOfFrame addr count) := by
  rintro rfl
  cases h with
  | fault h => exact h addr count rfl

theorem Guarded.mono {o : Out} (h : Guarded P o) (hPQ : ∀ t, P t → Q t) : Guarded Q o := by
  cases h with
  | next h => exact .next (hPQ _ h)
  | fault h => exact .fault h
  | refused r => exact .refused r

theorem guarded_ite {c : Prop} [Decidable c] {a b : Out} (ha : c → Guarded P a) (hb : ¬ c → Guarded P b) :
    Guarded P (if c then a else b) := by
  split
  · exact ha ‹_›
  · exact hb ‹_›

theorem guarded_need {o : Option α} {r : Reg} {k : α → Out} (h : ∀ v, o = some v → Guarded P (k v)) :
    Guarded P (need o r k) := by
  cases o with
  | none => exact .fault fun _ _ => nofun
  | some v => exact h v rfl

theorem guarded_validHdr {f : Header → Option α} {r : Reg} {k : α → Out}
    (h : s.frameStatus = .ok → ∀ v, f s.hdr = some v → Guarded P (k v)) : Guarded P (validHdr s f r k) :=
  guarded_ite (fun hok => guarded_need (h hok)) fun _ => .fault fun _ _ => nofun

theorem guarded_validArp {f : ArpRecord → Option α} {r : Reg} {k : α → Out} (h : ∀ v, Guarded P (k v)) :
    Guarded P (validArp s f r k) :=
  guarded_ite (fun _ => guarded_need fun v _ => h v) fun _ => .fault fun _ _ => nofun

theorem guarded_ifHeld {k : Out} (h : s.bufferHeld = true → Guarded P k) : Guarded P (ifHeld s k) :=
  guarded_ite h fun _ => .refused _

theorem guarded_inDecoder {d : Decoder} {n : Nat} {k : Nat → Out}
    (h : ∀ c, s.cursor = some ⟨d, c, n⟩ → s.bufferHeld = true → Guarded P (k c)) : Guarded P (inDecoder d n s k) := by
  unfold inDecoder
  split
  next c hcur =>
    refine guarded_ite (fun howner => guarded_ifHeld fun hheld => guarded_ite (fun hdone => ?_) fun _ => ?_) fun _ => ?_
    · exact h c.off (by rw [hcur, ← howner, ← hdone]) hheld
    · exact .fault fun _ _ => nofun
    · exact .fault fun _ _ => nofun
  next => exact .fault fun _ _ => nofun

theorem guarded_memRead8 {a : Nat} {k : Byte → Out} (hlen : a + 1 ≤ s.raw.len) (h : ∀ v, Guarded P (k v)) :
    Guarded P (memRead8 s a k) := by
  rw [memRead8, if_pos hlen]
  exact h _

theorem guarded_memRead16 {a : Nat} {k : Half → Out} (hlen : a + 2 ≤ s.raw.len) (h : ∀ v, Guarded P (k v)) :
    Guarded P (memRead16 s a k) := by
  rw [memRead16_inside hlen]
  exact h _

theorem guarded_memRead32 {a : Nat} {k : Word → Out} (hlen : a + 4 ≤ s.raw.len) (h : ∀ v, Guarded P (k v)) :
    Guarded P (memRead32 s a k) := by
  rw [memRead32_inside hlen]
  exact h _

theorem guarded_memMac {a : Nat} {k : Mac → Out} (hlen : a + 6 ≤ s.raw.len) (h : ∀ v, Guarded P (k v)) :
    Guarded P (memMac s a k) := by
  rw [memMac_inside hlen]
  exact h _

theorem guarded_seqValue {src : SeqOperand} {k : List Byte → Out} (h : ∀ bytes, Guarded P (k bytes)) :
    Guarded P (seqValue s src k) := by
  cases src with
  | lit bytes => exact h bytes
  | reg r =>
    cases r with
    | macDest | macSrc => exact guarded_validHdr fun _ m _ => h m.toList
    | senderHwAddr | senderProtoAddr | targetHwAddr | targetProtoAddr => exact guarded_validArp h

theorem guarded_andThen {o : Out} {k : State → Out} (ho : Guarded Q o) (hk : ∀ u, Q u → Guarded P (k u)) :
    Guarded P (andThen o k) := by
  cases ho with
  | next hq => exact hk _ hq
  | fault h => exact .fault h
  | refused r => exact .refused r

theorem guarded_runSteps {failed : State → Bool} {steps : List (State → Out)}
    (hsteps : ∀ f ∈ steps, ∀ u, P u → Guarded P (f u)) (hs : P s) : Guarded P (runSteps failed steps s) := by
  induction steps generalizing s with
  | nil => exact .next hs
  | cons f rest ih =>
    obtain ⟨hf, hrest⟩ := List.forall_mem_cons.1 hsteps
    cases hfs : f s with
    | next t =>
      have ht : P t := (hf s hs).ensures t hfs
      rw [runSteps_cons_next hfs]
      exact guarded_ite (fun _ => .next ht) fun _ => ih hrest ht
    | fault r =>
      have hr : Guarded P (.fault r) := hfs ▸ hf s hs
      simpa only [runSteps, hfs] using hr
    | refused r => simpa only [runSteps, hfs] using Guarded.refused r

end

/-! ## Instructions that only answer -/

/-- `DEMUX.SEL`, the views, the helpers and the code points of the ARP windows (40 R101, 41 R120, 43, 44, 30 R85 to R87). -/
def answersOnly : Instr → Bool
  | .demuxSel | .macFmt _ | .hexjoin _ | .dotted _ | .avHwname | .avPtname | .avSpaStr | .avTpaStr | .avShaStr | .avThaStr
  | .avOpclass | .cpHtypeEthernet | .cpHtypeOther _ | .cpPtypeIpv4 | .cpPtypeArp | .cpPtypeOther _ | .cpOperRequest
  | .cpOperReply | .cpOperOther _ => true
  | _ => false

/-- An operation that changes the answer only, and does not look at an earlier one. -/
structure Answers (f : State → Out) : Prop where
  only : ∀ s, Guarded (fun t => ∃ v, t = s.setAnswer v) (f s)
  anew : ∀ s v, f (s.setAnswer v) = f s

section
variable {s : State}

theorem guarded_answer (v : Value) : Guarded (fun t => ∃ v, t = s.setAnswer v) (.next (s.setAnswer v)) := .next ⟨v, rfl⟩

/-- A formatting function answers its text or stops for the length. -/
theorem guarded_text (text : Option (List Char)) (wanted got : Nat) :
    Guarded (fun t => ∃ v, t = s.setAnswer v)
      (match text with
        | some chars => .next (s.setAnswer (.text chars))
        | none => .fault (.lengthRequirement wanted got)) := by
  split
  · exact guarded_answer _
  · exact .fault fun _ _ => nofun

end

theorem execDemuxSel_answers : Answers execDemuxSel where
  only _ := guarded_validHdr fun _ _ _ => guarded_answer _
  anew _ _ := rfl

theorem execMacFmt_answers (src : SeqOperand) : Answers (execMacFmt src) where
  only _ := guarded_seqValue fun _ => guarded_text _ _ _
  anew _ _ := rfl

theorem execHexjoin_answers (src : SeqOperand) : Answers (execHexjoin src) where
  only _ := guarded_seqValue fun _ => guarded_answer _
  anew _ _ := rfl

theorem execDotted_answers (src : SeqOperand) : Answers (execDotted src) where
  only _ := guarded_seqValue fun _ => guarded_text _ _ _
  anew _ _ := rfl

theorem execAvHwname_answers : Answers execAvHwname where
  only _ := guarded_validArp fun _ => guarded_answer _
  anew _ _ := rfl

theorem execAvPtname_answers : Answers execAvPtname where
  only _ := guarded_validArp fun _ => guarded_answer _
  anew _ _ := rfl

theorem execAvSpaStr_answers : Answers execAvSpaStr where
  only _ := guarded_validArp fun _ => guarded_validArp fun _ => guarded_answer _
  anew _ _ := rfl

theorem execAvTpaStr_answers : Answers execAvTpaStr where
  only _ := guarded_validArp fun _ => guarded_validArp fun _ => guarded_answer _
  anew _ _ := rfl

theorem execAvShaStr_answers : Answers execAvShaStr where
  only _ := guarded_validArp fun _ => guarded_validArp fun _ => guarded_answer _
  anew _ _ := rfl

theorem execAvThaStr_answers : Answers execAvThaStr where
  only _ := guarded_validArp fun _ => guarded_validArp fun _ => guarded_answer _
  anew _ _ := rfl

theorem execAvOpclass_answers : Answers execAvOpclass where
  only _ := guarded_validArp fun _ => guarded_validArp fun _ => guarded_validArp fun _ => guarded_validArp fun _ =>
    guarded_validArp fun _ => guarded_answer _
  anew _ _ := rfl

/-- The code points of the ARP windows answer what the value and the table decide. -/
theorem answers_of_table (v : List (Half × Symbol) → Value) : Answers fun s => .next (s.setAnswer (v s.cfg.etypeNames)) where
  only _ := guarded_answer _
  anew _ _ := rfl

theorem exec_answers : ∀ {i : Instr}, answersOnly i = true → Answers (exec i)
  | .demuxSel, _ => execDemuxSel_answers
  | .macFmt src, _ => execMacFmt_answers src
  | .hexjoin src, _ => execHexjoin_answers src
  | .dotted src, _ => execDotted_answers src
  | .avHwname, _ => execAvHwname_answers
  | .avPtname, _ => execAvPtname_answers
  | .avSpaStr, _ => execAvSpaStr_answers
  | .avTpaStr, _ => execAvTpaStr_answers
  | .avShaStr, _ => execAvShaStr_answers
  | .avThaStr, _ => execAvThaStr_answers
  | .avOpclass, _ => execAvOpclass_answers
  | .cpHtypeEthernet, _ => answers_of_table fun _ => hwNaming Const.htypeEthernet
  | .cpHtypeOther v, _ => answers_of_table fun _ => hwNaming v
  | .cpPtypeIpv4, _ => answers_of_table fun names => protoNaming names Const.etypeIpv4
  | .cpPtypeArp, _ => answers_of_table fun names => protoNaming names Const.etypeArp
  | .cpPtypeOther v, _ => answers_of_table fun names => protoNaming names v
  | .cpOperRequest, _ => answers_of_table fun _ => operDecision Const.opRequest
  | .cpOperReply, _ => answers_of_table fun _ => operDecision Const.opReply
  | .cpOperOther v, _ => answers_of_table fun _ => operDecision v

/-- Settles O54: an instruction that only answers sees in the state after it and after another such instruction the
registers that it saw before. -/
theorem viewsWriteNoRegisterAndRepeat : Obligations.ViewsWriteNoRegisterAndRepeat := by
  intro i j s t u hij ht hu
  have hanswers : ∀ k ∈ [i, j], answersOnly k = true := by
    intro k hk
    obtain hlist | ⟨src, rfl | rfl | rfl⟩ | ⟨v, rfl | rfl | rfl⟩ := hij k hk
    · exact (List.all_eq_true (p := answersOnly)).1 (by decide) k hlist
    all_goals rfl
  have hi := exec_answers (hanswers i (by simp))
  have hj := exec_answers (hanswers j (by simp))
  obtain ⟨v, rfl⟩ := (hi.only s).ensures t ht
  obtain ⟨w, rfl⟩ := (hj.only _).ensures u hu
  refine ⟨rfl, Option.some_ne_none v, ?_⟩
  rw [hi.anew, hi.anew]
  exact ht

end Sys2Proof.Machine
end

section
/-! Runs in order (10 R42, R44 to R46): every operation keeps `InOrder` and, in a state that has it, reads no byte past the
end of the frame (20 R57). -/

namespace Sys2Proof.Machine

/-- In a state whose run is in order the operation keeps the order and reads no byte past the end. -/
def Orderly (f : State → Out) : Prop := ∀ s, s.InOrder → Guarded State.InOrder (f s)

/-! ## States in order -/

/-- The payload view, where there is one, is the rest of the frame. -/
def PayloadInside (raw : Frame) (h : Header) : Prop :=
  ∀ o n, h.payloadOff = some o → h.payloadLen = some n → o + n = raw.len

section
variable {s : State}

/-- Between runs only the payload view is asked about. -/
theorem inOrder_of_no_cursor (hcur : s.cursor = none) (hin : s.bufferHeld = true → PayloadInside s.raw s.hdr) : s.InOrder where
  frameOff c n h := by rw [hcur] at h; cases h
  frameWritten c n h := by rw [hcur] at h; cases h
  frameChecked c n h := by
    obtain ⟨-, h⟩ := h
    rw [hcur] at h; cases h
  arpOff c n h := by rw [hcur] at h; cases h
  arpWritten c n h := by rw [hcur] at h; cases h
  arpChecked c n h := by
    obtain ⟨-, h⟩ := h
    rw [hcur] at h; cases h
  payloadInside := hin

/-- FrameDecoder has done `n` steps in order on a held buffer. -/
theorem inOrder_frame {h : Header} {c n : Nat} (hn : n ≤ 9) (hoff : c = frameOffset (h.vlanPresent == some true) n)
    (hw : h.WrittenBy n) (h15 : 1 ≤ n → 15 ≤ s.raw.len) (h18 : 5 ≤ n → h.vlanPresent = some true → 18 ≤ s.raw.len)
    (hin : PayloadInside s.raw h) : ((s.setHdr h).reach .frame c n).InOrder where
  frameOff := by rintro _ _ ⟨⟩; exact ⟨hn, hoff⟩
  frameWritten := by rintro _ _ ⟨⟩; exact hw
  frameChecked := by rintro _ _ ⟨-, ⟨⟩⟩; exact ⟨h15, h18⟩
  arpOff := by rintro _ _ ⟨⟩
  arpWritten := by rintro _ _ ⟨⟩
  arpChecked := by rintro _ _ ⟨-, ⟨⟩⟩
  payloadInside _ := hin

/-- ArpDecoder has done `n` steps in order. -/
theorem inOrder_arp {a : ArpRecord} {c n : Nat} (hn : n ≤ 13)
    (hoff : c = arpOffset (a.hardwareLen.getD 0#8).toNat (a.protocolLen.getD 0#8).toNat n)
    (hcons : 11 ≤ n → a.arpConsumed = some c) (hw : a.WrittenBy n) (h8 : 2 ≤ n → 8 ≤ s.arpLen)
    (hin : PayloadInside s.raw s.hdr) : ((s.setArp a).reach .arp c n).InOrder where
  frameOff := by rintro _ _ ⟨⟩
  frameWritten := by rintro _ _ ⟨⟩
  frameChecked := by rintro _ _ ⟨-, ⟨⟩⟩
  arpOff := by rintro _ _ ⟨⟩; exact ⟨hn, hoff, hcons⟩
  arpWritten := by rintro _ _ ⟨⟩; exact hw
  arpChecked := by rintro _ _ ⟨-, ⟨⟩⟩; exact h8
  payloadInside _ := hin

theorem State.InOrder.setAnswer (hs : s.InOrder) (v : Value) : (s.setAnswer v).InOrder := { hs with }

theorem State.InOrder.setPending (hs : s.InOrder) (p : List Op) : (s.setPending p).InOrder := { hs with }

theorem raiseTooShort_inOrder (hs : s.InOrder) : ∀ d, (raiseTooShort d s).InOrder
  | .frame => inOrder_of_no_cursor rfl fun _ _ _ ho => nomatch ho
  | .arp => inOrder_of_no_cursor rfl hs.payloadInside

theorem inOrder_reset : State.reset.InOrder := inOrder_of_no_cursor rfl fun h => nomatch h

/-- What the length check at 15 bytes gives to the steps after it. -/
theorem State.InOrder.len_15 (hs : s.InOrder) {c n : Nat} (hat : s.FrameAt n c) (hn : 1 ≤ n := by decide) :
    15 ≤ s.raw.len :=
  (hs.frameChecked c n hat).1 hn

/-- What the length check of a tagged frame gives to the steps after it. -/
theorem State.InOrder.len_18 (hs : s.InOrder) {c n : Nat} (hat : s.FrameAt n c) (hn : 5 ≤ n)
    (htag : s.hdr.vlanPresent = some true) : 18 ≤ s.raw.len :=
  (hs.frameChecked c n hat).2 hn htag

theorem State.InOrder.arpInputInFrame (hs : s.InOrder) (hheld : s.bufferHeld = true) : s.ArpInputInFrame := by
  unfold State.ArpInputInFrame State.arpView
  split
  next o n ho hn => exact (hs.payloadInside hheld o n ho hn).le
  next => exact (Nat.zero_add _).le

/-- After AD.HDRCHK the eight bytes of the fixed header stand inside the frame (20 R57, 92 D4). -/
theorem State.InOrder.fixedHeader_inside (hs : s.InOrder) {c n : Nat} (hat : s.ArpAt n c) (hn : 2 ≤ n) {o k : Nat}
    (hok : o + k ≤ 8) : s.arpView.1 + o + k ≤ s.raw.len := by
  have h8 : 8 ≤ s.arpView.2 := hs.arpChecked c n hat hn
  have hin : s.arpView.1 + s.arpView.2 ≤ s.raw.len := hs.arpInputInFrame hat.1
  omega

/-! ## One more step of a run -/

theorem guarded_frameStep {P : State → Prop} {n : Nat} {k : Nat → Out} (h : ∀ c, s.FrameAt n c → Guarded P (k c)) :
    Guarded P (inDecoder .frame n s k) :=
  guarded_inDecoder fun c hcur hheld => h c ⟨hheld, hcur⟩

theorem guarded_arpStep {P : State → Prop} {n : Nat} {k : Nat → Out} (h : ∀ c, s.ArpAt n c → Guarded P (k c)) :
    Guarded P (inDecoder .arp n s k) :=
  guarded_inDecoder fun c hcur hheld => h c ⟨hheld, hcur⟩

theorem State.InOrder.frame_step (hs : s.InOrder) {c n : Nat} (hat : s.FrameAt n c) {h : Header} {c' : Nat}
    (hoff : c' = frameOffset (h.vlanPresent == some true) (n + 1)) (hw : h.WrittenBy (n + 1))
    (h18 : 5 ≤ n + 1 → h.vlanPresent = some true → 18 ≤ s.raw.len) (hin : PayloadInside s.raw h)
    (hn : 1 ≤ n ∧ n < 9 := by decide) : ((s.setHdr h).reach .frame c' (n + 1)).InOrder :=
  inOrder_frame hn.2 hoff hw (fun _ => hs.len_15 hat hn.1) h18 hin

theorem State.InOrder.arp_step (hs : s.InOrder) {c n : Nat} (hat : s.ArpAt n c) {a : ArpRecord} {c' : Nat}
    (hoff : c' = arpOffset (a.hardwareLen.getD 0#8).toNat (a.protocolLen.getD 0#8).toNat (n + 1))
    (hcons : 11 ≤ n + 1 → a.arpConsumed = some c') (hw : a.WrittenBy (n + 1)) (hn : 2 ≤ n ∧ n < 13 := by decide) :
    ((s.setArp a).reach .arp c' (n + 1)).InOrder :=
  inOrder_arp hn.2 hoff hcons hw (fun _ => hs.arpChecked c n hat hn.1) (hs.payloadInside hat.1)

end

/-! ## Which registers are written after each step of FrameDecoder -/

section
variable {h : Header}

theorem Header.writtenBy_cleared : Header.cleared.WrittenBy 0 := by
  constructor <;> decide

theorem Header.WrittenBy.lenchk (hw : h.WrittenBy 0) : h.WrittenBy 1 := by
  obtain ⟨_, _, _, _, _, _, _⟩ := hw
  constructor <;> simp_all

theorem Header.WrittenBy.macdst (hw : h.WrittenBy 1) (m : Mac) : { h with macDest := some m }.WrittenBy 2 := by
  obtain ⟨_, _, _, _, _, _, _⟩ := hw
  constructor <;> simp_all

theorem Header.WrittenBy.macsrc (hw : h.WrittenBy 2) (m : Mac) : { h with macSrc := some m }.WrittenBy 3 := by
  obtain ⟨_, _, _, _, _, _, _⟩ := hw
  constructor <;> simp_all

theorem Header.WrittenBy.vlanpeek (hw : h.WrittenBy 3) (b : Bool) : { h with vlanPresent := some b }.WrittenBy 4 := by
  obtain ⟨_, _, _, _, _, _, _⟩ := hw
  constructor <;> simp_all

theorem Header.WrittenBy.vlanchk (hw : h.WrittenBy 4) : h.WrittenBy 5 := by
  obtain ⟨_, _, _, _, _, _, _⟩ := hw
  constructor <;> simp_all

theorem Header.WrittenBy.vlantag_tagged (hw : h.WrittenBy 5) (htag : h.vlanPresent = some true) (v : Word) :
    { h with vlanTag := some v }.WrittenBy 6 := by
  obtain ⟨_, _, _, _, _, _, _⟩ := hw
  constructor <;> simp_all

theorem Header.WrittenBy.vlantag_untagged (hw : h.WrittenBy 5) (htag : h.vlanPresent = some false) : h.WrittenBy 6 := by
  obtain ⟨_, _, _, _, _, _, _⟩ := hw
  constructor <;> simp_all

theorem Header.WrittenBy.etype (hw : h.WrittenBy 6) (v : Half) : { h with etherType := some v }.WrittenBy 7 := by
  obtain ⟨_, _, _, _, _, _, _⟩ := hw
  constructor <;> simp_all

theorem Header.WrittenBy.payload_step (hw : h.WrittenBy 7) (l o n : Nat) :
    { h with hdrLen := some l, payloadOff := some o, payloadLen := some n }.WrittenBy 8 := by
  obtain ⟨_, _, _, _, _, _, _⟩ := hw
  constructor <;> simp_all

theorem Header.WrittenBy.lenwarn (hw : h.WrittenBy 8) (b : Bool) : { h with wLenMismatch := some b }.WrittenBy 9 := by
  obtain ⟨_, _, _, _, _, _, _⟩ := hw
  constructor <;> simp_all

/-- What CP.ETH12.PLAIN writes before FD.PAYLOAD stands for the four steps from FD.VLANPEEK to FD.ETYPE of an untagged frame. -/
theorem Header.WrittenBy.eth12Plain (hw : h.WrittenBy 3) (v : Half) :
    { h with vlanPresent := some false, etherType := some v }.WrittenBy 7 := by
  obtain ⟨_, _, _, _, _, _, _⟩ := hw
  constructor <;> simp_all

end

/-! ## FrameDecoder's steps -/

theorem startFrame_orderly : Orderly startFrame := fun s _ =>
  guarded_ite (fun _ => .refused _) fun _ => .next
    (inOrder_frame (s := { s with frameStatus := .none, arpStatus := .notRun, arp := ArpRecord.cleared, bufferHeld := true,
                                  answer := none })
      (Nat.zero_le 9) rfl Header.writtenBy_cleared nofun nofun nofun)

theorem execFdLenchk_orderly : Orderly execFdLenchk := fun s hs =>
  guarded_frameStep fun c hat =>
    guarded_ite (fun _ => .next (raiseTooShort_inOrder hs .frame)) fun hlen => .next
      (inOrder_frame (h := s.hdr) (by decide) (hs.frameOff c 0 hat.2).2 (hs.frameWritten c 0 hat.2).lenchk
        (fun _ => Nat.le_of_not_lt hlen) (fun h5 => absurd h5 (by decide)) (hs.payloadInside hat.1))

theorem execFdMacdst_orderly : Orderly execFdMacdst := fun s hs =>
  guarded_frameStep fun c hat => by
    have hlen := hs.len_15 hat
    have hw := hs.frameWritten c 1 hat.2
    exact guarded_memMac (by omega) fun m => .next
      (hs.frame_step hat rfl (hw.macdst m) (by simp) (hs.payloadInside hat.1))

theorem execFdMacsrc_orderly : Orderly execFdMacsrc := fun s hs =>
  guarded_frameStep fun c hat => by
    have hlen := hs.len_15 hat
    have hw := hs.frameWritten c 2 hat.2
    exact guarded_memMac (by omega) fun m => .next
      (hs.frame_step hat rfl (hw.macsrc m) (by simp) (hs.payloadInside hat.1))

theorem execFdVlanpeek_orderly : Orderly execFdVlanpeek := fun s hs =>
  guarded_frameStep fun c hat => by
    have hlen := hs.len_15 hat
    have hw := hs.frameWritten c 3 hat.2
    exact guarded_memRead16 (by omega) fun v => .next
      (hs.frame_step hat (hs.frameOff c 3 hat.2).2 (hw.vlanpeek _) (by simp) (hs.payloadInside hat.1))

theorem execFdVlanchk_orderly : Orderly execFdVlanchk := fun s hs =>
  guarded_frameStep fun c hat => guarded_need fun tagged htag =>
    guarded_ite (fun _ => .next (raiseTooShort_inOrder hs .frame)) fun hlen => .next
      (hs.frame_step (h := s.hdr) hat (hs.frameOff c 4 hat.2).2 (hs.frameWritten c 4 hat.2).vlanchk
        (fun _ ht => by
          rw [htag] at ht
          cases ht
          simpa using hlen)
        (hs.payloadInside hat.1))

theorem execFdVlantag_orderly : Orderly execFdVlantag := fun s hs =>
  guarded_frameStep fun c hat => guarded_need fun tagged htag => by
    have hw := hs.frameWritten c 5 hat.2
    have h18 := hs.len_18 hat (by decide)
    refine guarded_ite (fun ht => ?tagged) fun ht => ?untagged
    case tagged =>
      subst ht
      have hlen := h18 htag
      exact guarded_memRead32 (by omega) fun v => .next
        (hs.frame_step hat (by rw [htag]; rfl) (hw.vlantag_tagged htag v) (fun _ => h18) (hs.payloadInside hat.1))
    case untagged =>
      rw [Bool.not_eq_true] at ht
      subst ht
      have hoff := (hs.frameOff c 5 hat.2).2
      rw [htag] at hoff
      exact .next (hs.frame_step (h := s.hdr) hat (by rw [htag]; exact hoff) (hw.vlantag_untagged htag) (fun _ => h18)
        (hs.payloadInside hat.1))

theorem execFdEtype_orderly : Orderly execFdEtype := fun s hs =>
  guarded_frameStep fun c hat => guarded_need fun tagged htag => by
    have hw := hs.frameWritten c 6 hat.2
    have h18 := hs.len_18 hat (by decide)
    have h15 := hs.len_15 hat
    refine guarded_ite (fun ht => ?tagged) fun ht => ?untagged
    case tagged =>
      subst ht
      exact guarded_memRead16 (h18 htag) fun v => .next
        (hs.frame_step hat (by rw [htag]; rfl) (hw.etype v) (fun _ => h18) (hs.payloadInside hat.1))
    case untagged =>
      rw [Bool.not_eq_true] at ht
      subst ht
      exact guarded_memRead16 (by omega) fun v => .next
        (hs.frame_step hat (by rw [htag]; rfl) (hw.etype v) (fun _ => h18) (hs.payloadInside hat.1))

theorem execFdPayload_orderly : Orderly execFdPayload := fun s hs =>
  guarded_frameStep fun c hat => guarded_need fun tagged htag => by
    have h15 := hs.len_15 hat
    have h18 := hs.len_18 hat (by decide)
    have hlen : headerLength tagged ≤ s.raw.len := by
      cases tagged with
      | false => exact Nat.le_of_succ_le h15
      | true => exact h18 htag
    have hin : PayloadInside s.raw { s.hdr with hdrLen := some (headerLength tagged), payloadOff := some (headerLength tagged),
                                                   payloadLen := some (s.raw.len - headerLength tagged) } := by
      rintro _ _ ⟨⟩ ⟨⟩
      exact Nat.add_sub_cancel' hlen
    refine guarded_ite (fun _ => .next ?_) fun hn => absurd hlen hn
    exact hs.frame_step hat (hs.frameOff c 7 hat.2).2 ((hs.frameWritten c 7 hat.2).payload_step _ _ _) (fun _ => h18) hin

theorem lenwarnOf_orderly {s : State} (hs : s.InOrder) {c : Nat} (hat : s.FrameAt 8 c) (etherType : Half) :
    Guarded State.InOrder (lenwarnOf etherType c s) :=
  guarded_need fun _ _ => .next
    (hs.frame_step hat (hs.frameOff c 8 hat.2).2 ((hs.frameWritten c 8 hat.2).lenwarn _)
      (fun _ => hs.len_18 hat (by decide)) (hs.payloadInside hat.1))

theorem execFdLenwarn_orderly : Orderly execFdLenwarn := fun _ hs =>
  guarded_frameStep fun _ hat => guarded_need fun et _ => lenwarnOf_orderly hs hat et

theorem frameSteps_orderly : ∀ f ∈ frameSteps, Orderly f := by
  simp only [frameSteps, List.forall_mem_cons]
  exact ⟨execFdLenchk_orderly, execFdMacdst_orderly, execFdMacsrc_orderly, execFdVlanpeek_orderly, execFdVlanchk_orderly,
    execFdVlantag_orderly, execFdEtype_orderly, execFdPayload_orderly, execFdLenwarn_orderly, List.forall_mem_nil _⟩

theorem decoderReturn_orderly : ∀ d, Orderly (decoderReturn d)
  | .frame, _, hs => guarded_inDecoder fun _ _ _ => .next (inOrder_of_no_cursor rfl hs.payloadInside)
  | .arp, _, hs => guarded_inDecoder fun _ _ _ => .next (inOrder_of_no_cursor rfl hs.payloadInside)

theorem execFrameDecode_orderly : Orderly execFrameDecode := by
  refine fun s hs => guarded_runSteps ?_ hs
  simp only [List.forall_mem_cons, List.forall_mem_append]
  exact ⟨startFrame_orderly, frameSteps_orderly, decoderReturn_orderly .frame, List.forall_mem_nil _⟩

end Sys2Proof.Machine
end

section
/-! Runs in order, continued: ArpDecoder's steps, the whole operations, the code points and the caller's requests; and so
every step of the machine keeps `InOrder` and reads no byte past the end of the frame. -/

namespace Sys2Proof.Machine

/-! ## Which registers are written after each step of ArpDecoder -/

section
variable {a : ArpRecord}

theorem ArpRecord.writtenBy_cleared : ArpRecord.cleared.WrittenBy 0 := by
  constructor <;> decide

theorem ArpRecord.WrittenBy.lenchk (hw : a.WrittenBy 0) (b : Bool) : { a with wArpUnderlen := some b }.WrittenBy 1 := by
  obtain ⟨_, _, _, _, _, _, _, _, _, _, _⟩ := hw
  constructor <;> simp_all

theorem ArpRecord.WrittenBy.hdrchk (hw : a.WrittenBy 1) : a.WrittenBy 2 := by
  obtain ⟨_, _, _, _, _, _, _, _, _, _, _⟩ := hw
  constructor <;> simp_all

theorem ArpRecord.WrittenBy.htype (hw : a.WrittenBy 2) (v : Half) : { a with hardwareType := some v }.WrittenBy 3 := by
  obtain ⟨_, _, _, _, _, _, _, _, _, _, _⟩ := hw
  constructor <;> simp_all

theorem ArpRecord.WrittenBy.ptype (hw : a.WrittenBy 3) (v : Half) : { a with protocolType := some v }.WrittenBy 4 := by
  obtain ⟨_, _, _, _, _, _, _, _, _, _, _⟩ := hw
  constructor <;> simp_all

theorem ArpRecord.WrittenBy.hlen (hw : a.WrittenBy 4) (v : Byte) : { a with hardwareLen := some v }.WrittenBy 5 := by
  obtain ⟨_, _, _, _, _, _, _, _, _, _, _⟩ := hw
  constructor <;> simp_all

theorem ArpRecord.WrittenBy.plen (hw : a.WrittenBy 5) (v : Byte) : { a with protocolLen := some v }.WrittenBy 6 := by
  obtain ⟨_, _, _, _, _, _, _, _, _, _, _⟩ := hw
  constructor <;> simp_all

theorem ArpRecord.WrittenBy.oper (hw : a.WrittenBy 6) (v : Half) : { a with operation := some v }.WrittenBy 7 := by
  obtain ⟨_, _, _, _, _, _, _, _, _, _, _⟩ := hw
  constructor <;> simp_all

theorem ArpRecord.WrittenBy.sha (hw : a.WrittenBy 7) (v : List Byte) : { a with senderHwAddr := some v }.WrittenBy 8 := by
  obtain ⟨_, _, _, _, _, _, _, _, _, _, _⟩ := hw
  constructor <;> simp_all

theorem ArpRecord.WrittenBy.spa (hw : a.WrittenBy 8) (v : List Byte) : { a with senderProtoAddr := some v }.WrittenBy 9 := by
  obtain ⟨_, _, _, _, _, _, _, _, _, _, _⟩ := hw
  constructor <;> simp_all

theorem ArpRecord.WrittenBy.tha (hw : a.WrittenBy 9) (v : List Byte) : { a with targetHwAddr := some v }.WrittenBy 10 := by
  obtain ⟨_, _, _, _, _, _, _, _, _, _, _⟩ := hw
  constructor <;> simp_all

theorem ArpRecord.WrittenBy.tpa (hw : a.WrittenBy 10) (v : List Byte) (n : Nat) :
    { a with targetProtoAddr := some v, arpConsumed := some n }.WrittenBy 11 := by
  obtain ⟨_, _, _, _, _, _, _, _, _, _, _⟩ := hw
  constructor <;> simp_all

theorem ArpRecord.WrittenBy.trunc (hw : a.WrittenBy 11) (b : Bool) : { a with wArpTrunc := some b }.WrittenBy 12 := by
  obtain ⟨_, _, _, _, _, _, _, _, _, _, _⟩ := hw
  constructor <;> simp_all

theorem ArpRecord.WrittenBy.trail (hw : a.WrittenBy 12) (o n : Nat) (b : Bool) :
    { a with trailOff := some o, trailLen := some n, wArpTrailing := some b }.WrittenBy 13 := by
  obtain ⟨_, _, _, _, _, _, _, _, _, _, _⟩ := hw
  constructor <;> simp_all

end

/-! ## ArpDecoder's steps -/

theorem execAdLenchk_orderly : Orderly execAdLenchk := fun s hs =>
  guarded_arpStep fun c hat => .next
    (inOrder_arp (by decide) (hs.arpOff c 0 hat.2).2.1 nofun ((hs.arpWritten c 0 hat.2).lenchk _) nofun
      (hs.payloadInside hat.1))

theorem execAdHdrchk_orderly : Orderly execAdHdrchk := fun s hs =>
  guarded_arpStep fun c hat =>
    guarded_ite (fun _ => .next (raiseTooShort_inOrder hs .arp)) fun hlen => .next
      (inOrder_arp (a := s.arp) (by decide) (hs.arpOff c 1 hat.2).2.1 nofun (hs.arpWritten c 1 hat.2).hdrchk
        (fun _ => Nat.le_of_not_lt hlen) (hs.payloadInside hat.1))

theorem execAdHtype_orderly : Orderly execAdHtype := fun _ hs =>
  guarded_arpStep fun c hat =>
    guarded_memRead16 (hs.fixedHeader_inside hat (by decide) (by decide)) fun v => .next
      (hs.arp_step hat rfl nofun ((hs.arpWritten c 2 hat.2).htype v))

theorem execAdPtype_orderly : Orderly execAdPtype := fun _ hs =>
  guarded_arpStep fun c hat =>
    guarded_memRead16 (hs.fixedHeader_inside hat (by decide) (by decide)) fun v => .next
      (hs.arp_step hat rfl nofun ((hs.arpWritten c 3 hat.2).ptype v))

theorem execAdHlen_orderly : Orderly execAdHlen := fun _ hs =>
  guarded_arpStep fun c hat =>
    guarded_memRead8 (hs.fixedHeader_inside hat (by decide) (by decide)) fun v => .next
      (hs.arp_step hat rfl nofun ((hs.arpWritten c 4 hat.2).hlen v))

theorem execAdPlen_orderly : Orderly execAdPlen := fun _ hs =>
  guarded_arpStep fun c hat =>
    guarded_memRead8 (hs.fixedHeader_inside hat (by decide) (by decide)) fun v => .next
      (hs.arp_step hat rfl nofun ((hs.arpWritten c 5 hat.2).plen v))

theorem execAdOper_orderly : Orderly execAdOper := fun _ hs =>
  guarded_arpStep fun c hat =>
    guarded_memRead16 (hs.fixedHeader_inside hat (by decide) (by decide)) fun v => .next
      (hs.arp_step hat rfl nofun ((hs.arpWritten c 6 hat.2).oper v))

theorem execAdSha_orderly : Orderly execAdSha := fun _ hs =>
  guarded_arpStep fun c hat => guarded_need fun h hh => .next
    (hs.arp_step hat (by rw [(hs.arpOff c 7 hat.2).2.1]; simp [arpOffset, hh]) nofun ((hs.arpWritten c 7 hat.2).sha _))

theorem execAdSpa_orderly : Orderly execAdSpa := fun _ hs =>
  guarded_arpStep fun c hat => guarded_need fun p hp => .next
    (hs.arp_step hat (by rw [(hs.arpOff c 8 hat.2).2.1]; simp [arpOffset, hp]; omega) nofun ((hs.arpWritten c 8 hat.2).spa _))

theorem execAdTha_orderly : Orderly execAdTha := fun _ hs =>
  guarded_arpStep fun c hat => guarded_need fun h hh => .next
    (hs.arp_step hat (by rw [(hs.arpOff c 9 hat.2).2.1]; simp [arpOffset, hh]; omega) nofun ((hs.arpWritten c 9 hat.2).tha _))

theorem execAdTpa_orderly : Orderly execAdTpa := fun _ hs =>
  guarded_arpStep fun c hat => guarded_need fun p hp => .next
    (hs.arp_step hat (by rw [(hs.arpOff c 10 hat.2).2.1]; simp [arpOffset, hp]; omega) (fun _ => rfl)
      ((hs.arpWritten c 10 hat.2).tpa _ _))

theorem execAdTrunc_orderly : Orderly execAdTrunc := fun _ hs =>
  guarded_arpStep fun c hat => guarded_need fun _ _ => .next
    (hs.arp_step hat (hs.arpOff c 11 hat.2).2.1 (fun _ => (hs.arpOff c 11 hat.2).2.2 (by decide))
      ((hs.arpWritten c 11 hat.2).trunc _))

theorem execAdTrail_orderly : Orderly execAdTrail := fun _ hs =>
  guarded_arpStep fun c hat => guarded_need fun _ _ => .next
    (hs.arp_step hat (hs.arpOff c 12 hat.2).2.1 (fun _ => (hs.arpOff c 12 hat.2).2.2 (by decide))
      ((hs.arpWritten c 12 hat.2).trail _ _ _))

theorem arpSteps_orderly : ∀ f ∈ arpSteps, Orderly f := by
  simp only [arpSteps, List.forall_mem_cons]
  exact ⟨execAdLenchk_orderly, execAdHdrchk_orderly, execAdHtype_orderly, execAdPtype_orderly, execAdHlen_orderly,
    execAdPlen_orderly, execAdOper_orderly, execAdSha_orderly, execAdSpa_orderly, execAdTha_orderly, execAdTpa_orderly,
    execAdTrunc_orderly, execAdTrail_orderly, List.forall_mem_nil _⟩

/-! ## Whole operations and code points -/

/-- A run of ArpDecoder starts in order on whatever payload view stands. -/
theorem arpStart_inOrder {s : State} (hin : PayloadInside s.raw s.hdr) :
    ((s.setArp ArpRecord.cleared).reach .arp 0 0).InOrder :=
  inOrder_arp (by decide) rfl nofun ArpRecord.writtenBy_cleared nofun hin

theorem startRun_orderly : ∀ e, Orderly (startRun e)
  | .frame => startFrame_orderly
  | .arpPayload => fun s hs => guarded_validHdr fun _ _ _ => guarded_validHdr fun _ _ _ => guarded_ifHeld fun hheld =>
      .next (arpStart_inOrder (s := { s with arpStatus := .notRun, answer := none }) (hs.payloadInside hheld))
  | .arpWhole => fun s _ => .next (arpStart_inOrder (s :=
      { s with frameStatus := .none, arpStatus := .notRun, hdr := Header.invalid, bufferHeld := true, answer := none }) nofun)

theorem arpRun_orderly (e : Entry) : Orderly (arpRun e) := by
  refine fun s hs => guarded_runSteps ?_ hs
  simp only [List.forall_mem_cons, List.forall_mem_append]
  exact ⟨startRun_orderly e, arpSteps_orderly, decoderReturn_orderly .arp, List.forall_mem_nil _⟩

theorem execArpDecode_orderly : ∀ src, Orderly (execArpDecode src)
  | .payload => arpRun_orderly .arpPayload
  | .whole => arpRun_orderly .arpWhole

/-- An opaque payload after a run that has ended. -/
theorem payloadOpaque_inOrder {s : State} (hs : s.InOrder) (hcur : s.cursor = none) : (payloadOpaque s).InOrder :=
  inOrder_of_no_cursor hcur hs.payloadInside

/-- The payload view of an accepted frame is the rest of it (41 R118). -/
theorem header_payloadInside {f : Frame} (h : f.short = false) : PayloadInside f f.header := by
  rintro _ _ ⟨⟩ ⟨⟩
  exact Nat.add_sub_cancel' (headerLength_le_of_not_short h)

theorem execDemux_orderly : Orderly execDemux := fun s _ => by
  rw [execDemux_eq]
  refine guarded_ite (fun _ => .refused _) fun _ => guarded_ite (fun _ => .next (inOrder_of_no_cursor rfl fun _ => nofun))
    fun hshort => ?_
  have hin := header_payloadInside (Bool.eq_false_of_not_eq_true hshort)
  refine guarded_ite (fun _ => .next ?_) fun _ => .next (inOrder_of_no_cursor rfl fun _ => hin)
  split <;> exact inOrder_of_no_cursor rfl fun _ => hin

theorem execCpEth12Vlan_orderly : Orderly execCpEth12Vlan := fun s hs =>
  guarded_frameStep fun c hat =>
    guarded_runSteps (steps := taggedSteps) (fun f hf => frameSteps_orderly f (taggedSteps_subset f hf))
      (hs.frame_step hat (hs.frameOff c 3 hat.2).2 ((hs.frameWritten c 3 hat.2).vlanpeek true) nofun (hs.payloadInside hat.1))

theorem execCpEth12Plain_orderly (etherType : Half) : Orderly (execCpEth12Plain etherType) := fun s hs =>
  guarded_frameStep fun c hat => execFdPayload_orderly _
    (inOrder_frame (by decide) rfl ((hs.frameWritten c 3 hat.2).eth12Plain etherType) (fun _ => hs.len_15 hat) nofun
      (hs.payloadInside hat.1))

/-- The end of FrameDecoder before an EtherType's code point leaves no run. -/
theorem finishFrame_orderly (etherType : Half) {s : State} (hs : s.InOrder) :
    Guarded (fun t => t.InOrder ∧ t.cursor = none) (finishFrame etherType s) := by
  unfold finishFrame
  split
  next =>
    refine guarded_frameStep fun c hat => guarded_andThen (lenwarnOf_orderly hs hat etherType) fun u hu => ?_
    exact guarded_inDecoder fun _ _ _ => .next ⟨inOrder_of_no_cursor rfl hu.payloadInside, rfl⟩
  next hcur => exact guarded_validHdr fun _ _ _ => guarded_ifHeld fun _ => .next ⟨hs, hcur⟩

theorem execCpEtypeArp_orderly : Orderly execCpEtypeArp := fun _ hs =>
  guarded_andThen (finishFrame_orderly _ hs) fun u hu => arpRun_orderly .arpPayload u hu.1

theorem notArp_orderly (etherType : Half) : Orderly (notArp etherType) := fun _ hs =>
  guarded_andThen (finishFrame_orderly etherType hs) fun _ hu => .next (payloadOpaque_inOrder hu.1 hu.2)

/-! ## Every instruction and every request -/

theorem exec_orderly_of_answersOnly {i : Instr} (h : answersOnly i = true) : Orderly (exec i) := fun s hs =>
  ((exec_answers h).only s).mono fun _ ht => by
    obtain ⟨v, rfl⟩ := ht
    exact hs.setAnswer v

theorem exec_orderly : ∀ i, Orderly (exec i)
  | .cpEth12Vlan => execCpEth12Vlan_orderly
  | .cpEth12Plain etherType => execCpEth12Plain_orderly etherType
  | .cpEtypeArp => execCpEtypeArp_orderly
  | .cpEtypeLength etherType | .cpEtypeOther etherType => notArp_orderly etherType
  | .demux => execDemux_orderly
  | .frameDecode => execFrameDecode_orderly
  | .fdLenchk => execFdLenchk_orderly
  | .fdMacdst => execFdMacdst_orderly
  | .fdMacsrc => execFdMacsrc_orderly
  | .fdVlanpeek => execFdVlanpeek_orderly
  | .fdVlanchk => execFdVlanchk_orderly
  | .fdVlantag => execFdVlantag_orderly
  | .fdEtype => execFdEtype_orderly
  | .fdPayload => execFdPayload_orderly
  | .fdLenwarn => execFdLenwarn_orderly
  | .arpDecode src => execArpDecode_orderly src
  | .adLenchk => execAdLenchk_orderly
  | .adHdrchk => execAdHdrchk_orderly
  | .adHtype => execAdHtype_orderly
  | .adPtype => execAdPtype_orderly
  | .adHlen => execAdHlen_orderly
  | .adPlen => execAdPlen_orderly
  | .adOper => execAdOper_orderly
  | .adSha => execAdSha_orderly
  | .adSpa => execAdSpa_orderly
  | .adTha => execAdTha_orderly
  | .adTpa => execAdTpa_orderly
  | .adTrunc => execAdTrunc_orderly
  | .adTrail => execAdTrail_orderly
  | .demuxSel | .macFmt _ | .hexjoin _ | .dotted _ | .avHwname | .avPtname | .avSpaStr | .avTpaStr | .avShaStr | .avThaStr
  | .avOpclass | .cpHtypeEthernet | .cpHtypeOther _ | .cpPtypeIpv4 | .cpPtypeArp | .cpPtypeOther _ | .cpOperRequest
  | .cpOperReply | .cpOperOther _ => exec_orderly_of_answersOnly rfl

/-- The bits of a window are read inside the frame: FrameDecoder has passed its first length check at offset 12. -/
theorem guarded_windowBytes {P : State → Prop} {s : State} (hs : s.InOrder) {w : Window} {k : List Byte → Out}
    (h : ∀ bytes, Guarded P (k bytes)) : Guarded P (windowBytes w s k) := by
  cases w with
  | eth12 =>
    unfold windowBytes
    refine guarded_frameStep fun c hat => ?_
    have hlen := hs.len_15 hat
    exact guarded_memRead16 (by omega) fun _ => h _
  | etype =>
    simp only [windowBytes]
    split
    · exact guarded_inDecoder fun _ _ _ => guarded_need fun v _ => h (halfBytes v)
    · exact guarded_validHdr fun _ v _ => h (halfBytes v)
  | arpHtype | arpPtype | arpOper => exact guarded_validArp fun v => h (halfBytes v)

theorem runWindow_orderly (w : Window) : Orderly (runWindow w) := fun s hs =>
  guarded_windowBytes hs fun _ => by
    split
    · exact exec_orderly _ s hs
    · exact .refused _

theorem readRegister_guarded (r : Reg) (s : State) : Guarded (fun t => ∃ v, t = s.setAnswer v) (readRegister r s) := by
  unfold readRegister
  split
  · exact .fault fun _ _ => nofun
  · exact guarded_ite (fun _ => guarded_ifHeld fun _ => guarded_answer _) fun _ => guarded_answer _

theorem readRegister_orderly (r : Reg) : Orderly (readRegister r) := fun s hs =>
  (readRegister_guarded r s).mono fun _ ht => by
    obtain ⟨v, rfl⟩ := ht
    exact hs.setAnswer v

/-- A frame presented in the middle of a run leaves the cursor and the registers; the checks ask nothing of the new buffer. -/
theorem presentFrame_inOrder {s : State} (hs : s.InOrder) (bytes : List Byte) : (presentFrame bytes s).InOrder where
  frameOff := hs.frameOff
  frameWritten := hs.frameWritten
  frameChecked _ _ hat := nomatch hat.1
  arpOff := hs.arpOff
  arpWritten := hs.arpWritten
  arpChecked _ _ hat := nomatch hat.1
  payloadInside hheld := nomatch hheld

theorem doOp_orderly : ∀ op, Orderly (doOp op)
  | .present bytes => fun _ hs => .next (presentFrame_inOrder hs bytes)
  | .run i => fun s hs => guarded_ite (fun _ => exec_orderly i s hs) fun _ => .refused _
  | .select w => runWindow_orderly w
  | .start e => startRun_orderly e
  | .ret d => decoderReturn_orderly d
  | .read r => readRegister_orderly r
  | .reset => fun _ _ => .next (inOrder_of_no_cursor rfl fun hheld => nomatch hheld)

theorem step_orderly : Orderly step := by
  intro s hs
  cases hp : s.pending with
  | nil => rw [step_idle hp]; exact .next hs
  | cons op rest => rw [step_cons hp]; exact doOp_orderly op _ (hs.setPending rest)

/-- Settles O16: every request keeps the order. -/
theorem stepKeepsEveryRunInOrder : Obligations.StepKeepsEveryRunInOrder :=
  fun s t hs h => (step_orderly s hs).ensures t h

/-- Settles O17: in an order that holds, every fixed-width read comes after the length check that guards it. -/
theorem readsPastTheEndNeverHappen : Obligations.ReadsPastTheEndNeverHappen :=
  fun s hs => (step_orderly s hs).ne_outOfFrame

end Sys2Proof.Machine
end

section
/-! The validity invariant (10 R41): every step keeps it, and between transactions a read answers exactly for the valid
registers. -/

namespace Sys2Proof.Machine

/-! ## Complete results -/

/-- When all steps of FrameDecoder have run, every register that a success makes valid has a value. -/
theorem Header.WrittenBy.complete {h : Header} (hw : h.WrittenBy 9) : h.complete = true := by
  obtain ⟨hdst, hsrc, hvlan, htag, hetype, ⟨hhdr, hoff, hlen⟩, hflag⟩ := hw
  obtain ⟨b, hb⟩ := Option.isSome_iff_exists.1 hvlan
  cases b <;> simp_all [Header.complete]

/-- When all steps of ArpDecoder have run, every register that a success makes valid has a value. -/
theorem ArpRecord.WrittenBy.complete {a : ArpRecord} (hw : a.WrittenBy 13) : a.complete = true := by
  obtain ⟨_, _, _, _, _, _, _, _, _, _, _⟩ := hw
  simp_all [ArpRecord.complete]

/-! ## States that meet the invariant -/

section
variable {s : State}

/-- Between transactions: a status OK with a complete result, any other with an invalid one. -/
theorem inv_of_no_cursor (hcur : s.cursor = none) (hraw : s.raw.wf = true)
    (hhdr : (s.frameStatus = .ok ∧ s.hdr.complete = true) ∨ (s.frameStatus ≠ .ok ∧ s.hdr = Header.invalid))
    (harp : (s.arpStatus = .ok ∧ s.arp.complete = true) ∨ (s.arpStatus ≠ .ok ∧ s.arp = ArpRecord.invalid))
    (halone : s.frameStatus = .tooShort → s.arpStatus = .notRun) : s.Inv where
  rawWf := hraw
  frameRunning h := by simp [State.frameCursor, hcur] at h
  arpRunning h := by simp [State.arpCursor, hcur] at h
  headerValid hok := hhdr.elim (fun h => h.2) fun h => absurd hok h.1
  headerInvalid hne _ := hhdr.elim (fun h => absurd h.1 hne) fun h => h.2
  recordValid hok := harp.elim (fun h => h.2) fun h => absurd hok h.1
  recordInvalid hne _ := harp.elim (fun h => absurd h.1 hne) fun h => h.2
  failureAlone h := ⟨halone h, hcur⟩

/-- The header half of the invariant in a state without a running FrameDecoder. -/
theorem State.Inv.header_cases (hs : s.Inv) (hcur : s.frameCursor = false) :
    (s.frameStatus = .ok ∧ s.hdr.complete = true) ∨ (s.frameStatus ≠ .ok ∧ s.hdr = Header.invalid) := by
  by_cases hok : s.frameStatus = .ok
  · exact .inl ⟨hok, hs.headerValid hok⟩
  · exact .inr ⟨hok, hs.headerInvalid hok hcur⟩

theorem frameCursor_of_arpCursor (h : s.arpCursor = true) : s.frameCursor = false := by
  unfold State.arpCursor at h
  unfold State.frameCursor
  split at h
  next c hc =>
    rw [eq_of_beq h]
    rfl
  next => cases h

theorem cursor_ne_none_of_frameCursor (h : s.frameCursor = true) : s.cursor ≠ none := by
  intro hc
  rw [State.frameCursor, hc] at h
  cases h

theorem cursor_ne_none_of_arpCursor (h : s.arpCursor = true) : s.cursor ≠ none := by
  intro hc
  rw [State.arpCursor, hc] at h
  cases h

theorem inv_reset : State.reset.Inv :=
  inv_of_no_cursor rfl rfl (.inr ⟨nofun, rfl⟩) (.inr ⟨nofun, rfl⟩) nofun

theorem State.Inv.setAnswer (hs : s.Inv) (v : Value) : (s.setAnswer v).Inv := { hs with }

theorem State.Inv.setPending (hs : s.Inv) (p : List Op) : (s.setPending p).Inv := { hs with }

/-- A presented frame is in canonical form, and no register changes. -/
theorem State.Inv.presentFrame (hs : s.Inv) (bytes : List Byte) : (presentFrame bytes s).Inv :=
  { hs with rawWf := Frame.wf_ofBytes bytes }

theorem raiseTooShort_frame_inv (hs : s.Inv) : (raiseTooShort .frame s).Inv :=
  inv_of_no_cursor rfl hs.rawWf (.inr ⟨nofun, rfl⟩) (.inr ⟨nofun, rfl⟩) fun _ => rfl

theorem raiseTooShort_arp_inv (hs : s.Inv) (hcur : s.arpCursor = true) : (raiseTooShort .arp s).Inv :=
  inv_of_no_cursor rfl hs.rawWf (hs.header_cases (frameCursor_of_arpCursor hcur)) (.inr ⟨nofun, rfl⟩)
    fun hfailed => absurd hfailed (hs.arpRunning hcur).2

/-- A running FrameDecoder writes its own registers, which say nothing before it reports. -/
theorem State.Inv.frame_goesOn (hs : s.Inv) (hcur : s.frameCursor = true) (h : Header) (c n : Nat) :
    ((s.setHdr h).reach .frame c n).Inv := by
  obtain ⟨hframe, harp⟩ := hs.frameRunning hcur
  exact {
    rawWf := hs.rawWf
    frameRunning := fun _ => ⟨hframe, harp⟩
    arpRunning := nofun
    headerValid := fun hok => absurd (hframe ▸ hok) nofun
    headerInvalid := fun _ => nofun
    recordValid := fun hok => absurd (harp ▸ hok) nofun
    recordInvalid := fun _ => nofun
    failureAlone := fun hfailed => absurd (hframe ▸ hfailed) nofun }

/-- A running ArpDecoder writes its own registers, which say nothing before it reports. -/
theorem State.Inv.arp_goesOn (hs : s.Inv) (hcur : s.arpCursor = true) (a : ArpRecord) (c n : Nat) :
    ((s.setArp a).reach .arp c n).Inv := by
  obtain ⟨harp, hframe⟩ := hs.arpRunning hcur
  exact {
    rawWf := hs.rawWf
    frameRunning := nofun
    arpRunning := fun _ => ⟨harp, hframe⟩
    headerValid := hs.headerValid
    headerInvalid := fun hne _ => hs.headerInvalid hne (frameCursor_of_arpCursor hcur)
    recordValid := fun hok => absurd (harp ▸ hok) nofun
    recordInvalid := fun _ => nofun
    failureAlone := fun hfailed => absurd hfailed hframe }

theorem FrameMove.inv {t : State} (hmove : FrameMove s t) (hs : s.Inv) (hcur : s.frameCursor = true) : t.Inv := by
  cases hmove with
  | goesOn h c n _ => exact hs.frame_goesOn hcur h c n
  | fails => exact raiseTooShort_frame_inv hs

theorem ArpMove.inv {t : State} (hmove : ArpMove s t) (hs : s.Inv) (hcur : s.arpCursor = true) : t.Inv := by
  cases hmove with
  | goesOn a c n => exact hs.arp_goesOn hcur a c n
  | fails => exact raiseTooShort_arp_inv hs hcur

/-- FrameDecoder has ended with a complete header and there is no record yet (40 R102). -/
theorem frameDone_inv {h : Header} {status : FrameStatus} (hraw : s.raw.wf = true) (hstatus : status = .ok)
    (hh : h.complete = true) (harp : s.arpStatus ≠ .ok) :
    { s with hdr := h, frameStatus := status, arp := ArpRecord.invalid, cursor := none : State }.Inv :=
  inv_of_no_cursor rfl hraw (.inl ⟨hstatus, hh⟩) (.inr ⟨harp, rfl⟩) fun hfailed => absurd (hstatus ▸ hfailed) nofun

theorem payloadOpaque_inv (hs : s.Inv) (hcur : s.cursor = none) : (payloadOpaque s).Inv :=
  inv_of_no_cursor hcur hs.rawWf (hs.header_cases (by rw [State.frameCursor, hcur])) (.inr ⟨nofun, rfl⟩) fun _ => rfl

end

/-! ## Every operation keeps the invariant -/

/-- In a state whose run is in order the operation keeps the invariant. -/
def KeepsInv (f : State → Out) : Prop := ∀ s, s.Inv → s.InOrder → Ensures (f s) State.Inv

theorem MovesFrame.keepsInv {f : State → Out} (hf : MovesFrame f) : KeepsInv f := fun s hs _ t ht =>
  (hf s t ht).2.inv hs (hf s t ht).1

theorem MovesArp.keepsInv {f : State → Out} (hf : MovesArp f) : KeepsInv f := fun s hs _ t ht =>
  (hf s t ht).2.inv hs (hf s t ht).1

theorem frameFailure_inv {s : State} (hs : s.Inv) : (frameFailure s).Inv :=
  inv_of_no_cursor rfl hs.rawWf (.inr ⟨nofun, rfl⟩) (.inr ⟨nofun, rfl⟩) fun _ => rfl

theorem frameSuccess_inv {s : State} (hs : s.Inv) : (frameSuccess s).Inv :=
  inv_of_no_cursor rfl hs.rawWf (.inl ⟨rfl, s.raw.header_complete⟩) (.inr ⟨nofun, rfl⟩) nofun

theorem execFrameDecode_keepsInv : KeepsInv execFrameDecode := fun s hs _ => by
  rw [execFrameDecode_eq]
  refine ensures_ite (fun _ => ensures_refused _) fun _ => ensures_next ?_
  split
  · exact frameFailure_inv hs
  · exact frameSuccess_inv hs

theorem execDemux_keepsInv : KeepsInv execDemux := fun s hs _ => by
  rw [execDemux_eq]
  refine ensures_ite (fun _ => ensures_refused _) fun _ => ensures_ite (fun _ => ensures_next (frameFailure_inv hs))
    fun _ => ensures_ite (fun _ => ensures_next ?_) fun _ => ensures_next (frameSuccess_inv hs)
  split
  · exact inv_of_no_cursor rfl hs.rawWf (.inl ⟨rfl, s.raw.header_complete⟩) (.inr ⟨nofun, rfl⟩) nofun
  · exact inv_of_no_cursor rfl hs.rawWf (.inl ⟨rfl, s.raw.header_complete⟩) (.inl ⟨rfl, rfl⟩) nofun

theorem startRun_keepsInv : ∀ e, KeepsInv (startRun e)
  | .frame => fun s hs _ => ensures_ite (fun _ => ensures_refused _) fun _ => ensures_next
      { rawWf := hs.rawWf
        frameRunning := fun _ => ⟨rfl, rfl⟩
        arpRunning := nofun
        headerValid := nofun
        headerInvalid := fun _ => nofun
        recordValid := nofun
        recordInvalid := fun _ => nofun
        failureAlone := nofun }
  | .arpPayload => fun s hs _ t ht => by
      obtain ⟨hok, -, -, -, rfl⟩ := startArpPayload_next ht
      exact {
        rawWf := hs.rawWf
        frameRunning := nofun
        arpRunning := fun _ => ⟨rfl, fun hfailed => absurd (hok ▸ hfailed) nofun⟩
        headerValid := hs.headerValid
        headerInvalid := fun hne => absurd hok hne
        recordValid := nofun
        recordInvalid := fun _ => nofun
        failureAlone := fun hfailed => absurd (hok ▸ hfailed) nofun }
  | .arpWhole => fun s hs _ => ensures_next
      { rawWf := hs.rawWf
        frameRunning := nofun
        arpRunning := fun _ => ⟨rfl, nofun⟩
        headerValid := nofun
        headerInvalid := fun _ _ => rfl
        recordValid := nofun
        recordInvalid := fun _ => nofun
        failureAlone := nofun }

/-- A return makes the registers of all steps done valid. -/
theorem decoderReturn_keepsInv : ∀ d, KeepsInv (decoderReturn d)
  | .frame => fun s hs ho t ht => by
      obtain ⟨⟨c, hcur⟩, -, rfl⟩ := decoderReturn_frame_next ht
      have hrunning := hs.frameRunning (frameCursor_of_cursor hcur)
      exact frameDone_inv hs.rawWf rfl (ho.frameWritten c 9 hcur).complete (by rw [hrunning.2]; nofun)
  | .arp => fun s hs ho t ht => by
      obtain ⟨⟨c, hcur⟩, -, rfl⟩ := decoderReturn_arp_next ht
      have harp := arpCursor_of_cursor hcur
      exact inv_of_no_cursor rfl hs.rawWf (hs.header_cases (frameCursor_of_arpCursor harp))
        (.inl ⟨rfl, (ho.arpWritten c 13 hcur).complete⟩) fun hfailed => absurd hfailed (hs.arpRunning harp).2

/-- A run of steps that keep the invariant and the order keeps the invariant. -/
theorem runSteps_keepsInv {failed : State → Bool} {steps : List (State → Out)}
    (hsteps : ∀ f ∈ steps, KeepsInv f ∧ Orderly f) : KeepsInv (runSteps failed steps) := fun s hs ho t ht => by
  have hkeeps : ∀ f ∈ steps, ∀ u v, (u.Inv ∧ u.InOrder) → f u = .next v → v.Inv ∧ v.InOrder := by
    intro f hf u v hu hv
    obtain ⟨hinv, horder⟩ := hsteps f hf
    exact ⟨hinv u hu.1 hu.2 v hv, (horder u hu.2).ensures v hv⟩
  exact (runSteps_keeps hkeeps ⟨hs, ho⟩ ht).1

theorem arpRun_keepsInv (e : Entry) : KeepsInv (arpRun e) := by
  refine runSteps_keepsInv ?_
  simp only [List.forall_mem_cons, List.forall_mem_append]
  exact ⟨⟨startRun_keepsInv e, startRun_orderly e⟩, fun f hf => ⟨(arpSteps_move f hf).keepsInv, arpSteps_orderly f hf⟩,
    ⟨decoderReturn_keepsInv .arp, decoderReturn_orderly .arp⟩, List.forall_mem_nil _⟩

theorem execArpDecode_keepsInv : ∀ src, KeepsInv (execArpDecode src)
  | .payload => arpRun_keepsInv .arpPayload
  | .whole => arpRun_keepsInv .arpWhole

theorem execCpEth12Vlan_keepsInv : KeepsInv execCpEth12Vlan := fun _ hs _ =>
  ensures_inDecoder fun _ hcur _ t ht => by
    have hcur' := frameCursor_of_cursor hcur
    have hkeeps : ∀ f ∈ taggedSteps, ∀ u v, u.Inv → f u = .next v → v.Inv := fun f hf u v hu hv =>
      have hmove := frameSteps_move f (taggedSteps_subset f hf) u v hv
      hmove.2.inv hu hmove.1
    exact runSteps_keeps hkeeps (hs.frame_goesOn hcur' _ _ _) ht

theorem execCpEth12Plain_keepsInv (etherType : Half) : KeepsInv (execCpEth12Plain etherType) := fun _ hs _ =>
  ensures_inDecoder fun _ hcur _ t ht =>
    have hmove := execFdPayload_moves _ t ht
    hmove.2.inv (hs.frame_goesOn (frameCursor_of_cursor hcur) _ _ _) hmove.1

/-- The end of FrameDecoder before an EtherType's code point: the last flag completes the header. -/
theorem finishFrame_inv {etherType : Half} {s t : State} (hs : s.Inv) (ho : s.InOrder) (h : finishFrame etherType s = .next t) :
    t.Inv ∧ t.cursor = none := by
  obtain ⟨-, ⟨c, n, hcur, -, rfl⟩ | ⟨hcur, -, -, rfl⟩⟩ := finishFrame_next h
  · have hrunning := hs.frameRunning (frameCursor_of_cursor hcur)
    exact ⟨frameDone_inv hs.rawWf rfl ((ho.frameWritten c 8 hcur).lenwarn _).complete (by rw [hrunning.2]; nofun), rfl⟩
  · exact ⟨hs, hcur⟩

theorem execCpEtypeArp_keepsInv : KeepsInv execCpEtypeArp := fun _ hs ho t ht => by
  obtain ⟨u, hu, ht⟩ := andThen_next ht
  exact arpRun_keepsInv .arpPayload u (finishFrame_inv hs ho hu).1 ((finishFrame_orderly _ ho).ensures u hu).1 t ht

theorem notArp_keepsInv (etherType : Half) : KeepsInv (notArp etherType) := fun _ hs ho t ht => by
  obtain ⟨u, hu, ht⟩ := andThen_next ht
  cases ht
  obtain ⟨hinv, hcur⟩ := finishFrame_inv hs ho hu
  exact payloadOpaque_inv hinv hcur

theorem exec_keepsInv_of_answersOnly {i : Instr} (h : answersOnly i = true) : KeepsInv (exec i) := fun s hs _ t ht => by
  obtain ⟨v, rfl⟩ := ((exec_answers h).only s).ensures t ht
  exact hs.setAnswer v

theorem exec_keepsInv : ∀ i, KeepsInv (exec i)
  | .cpEth12Vlan => execCpEth12Vlan_keepsInv
  | .cpEth12Plain etherType => execCpEth12Plain_keepsInv etherType
  | .cpEtypeArp => execCpEtypeArp_keepsInv
  | .cpEtypeLength etherType | .cpEtypeOther etherType => notArp_keepsInv etherType
  | .demux => execDemux_keepsInv
  | .frameDecode => execFrameDecode_keepsInv
  | .fdLenchk => execFdLenchk_moves.keepsInv
  | .fdMacdst => execFdMacdst_moves.keepsInv
  | .fdMacsrc => execFdMacsrc_moves.keepsInv
  | .fdVlanpeek => execFdVlanpeek_moves.keepsInv
  | .fdVlanchk => execFdVlanchk_moves.keepsInv
  | .fdVlantag => execFdVlantag_moves.keepsInv
  | .fdEtype => execFdEtype_moves.keepsInv
  | .fdPayload => execFdPayload_moves.keepsInv
  | .fdLenwarn => execFdLenwarn_moves.keepsInv
  | .arpDecode src => execArpDecode_keepsInv src
  | .adLenchk => execAdLenchk_moves.keepsInv
  | .adHdrchk => execAdHdrchk_moves.keepsInv
  | .adHtype => execAdHtype_moves.keepsInv
  | .adPtype => execAdPtype_moves.keepsInv
  | .adHlen => execAdHlen_moves.keepsInv
  | .adPlen => execAdPlen_moves.keepsInv
  | .adOper => execAdOper_moves.keepsInv
  | .adSha => execAdSha_moves.keepsInv
  | .adSpa => execAdSpa_moves.keepsInv
  | .adTha => execAdTha_moves.keepsInv
  | .adTpa => execAdTpa_moves.keepsInv
  | .adTrunc => execAdTrunc_moves.keepsInv
  | .adTrail => execAdTrail_moves.keepsInv
  | .demuxSel | .macFmt _ | .hexjoin _ | .dotted _ | .avHwname | .avPtname | .avSpaStr | .avTpaStr | .avShaStr | .avThaStr
  | .avOpclass | .cpHtypeEthernet | .cpHtypeOther _ | .cpPtypeIpv4 | .cpPtypeArp | .cpPtypeOther _ | .cpOperRequest
  | .cpOperReply | .cpOperOther _ => exec_keepsInv_of_answersOnly rfl

theorem runWindow_keepsInv (w : Window) : KeepsInv (runWindow w) := fun s hs ho =>
  ensures_windowBytes fun _ => by
    split
    · exact exec_keepsInv _ s hs ho
    · exact ensures_refused _

theorem doOp_keepsInv : ∀ op, KeepsInv (doOp op)
  | .present bytes => fun _ hs _ => ensures_next (hs.presentFrame bytes)
  | .run i => fun s hs ho => ensures_ite (fun _ => exec_keepsInv i s hs ho) fun _ => ensures_refused _
  | .select w => runWindow_keepsInv w
  | .start e => startRun_keepsInv e
  | .ret d => decoderReturn_keepsInv d
  | .read r => fun s hs _ t ht => by
      obtain ⟨v, -, -, rfl⟩ := readRegister_next ht
      exact hs.setAnswer v
  | .reset => fun _ hs _ => ensures_next (inv_of_no_cursor rfl hs.rawWf (.inr ⟨nofun, rfl⟩) (.inr ⟨nofun, rfl⟩) nofun)

/-- Settles O15: every request keeps the invariant in a state whose run is in order. -/
theorem stepKeepsTheValidityInvariant : Obligations.StepKeepsTheValidityInvariant := by
  intro s t hs ho ht
  cases hp : s.pending with
  | nil =>
    rw [step_idle hp] at ht
    cases ht
    exact hs
  | cons op rest =>
    rw [step_cons hp] at ht
    exact doOp_keepsInv op _ (hs.setPending rest) (ho.setPending rest) t ht

/-! ## Reads between transactions -/

section
variable {s : State}

theorem headerRead_isSome {α : Type} (o : Option α) (v : α → Value) :
    (headerRead s o v).isSome = (s.frameStatus == .ok && o.isSome) := by
  unfold headerRead
  split <;> simp_all

theorem arpRead_isSome {α : Type} (o : Option α) (v : α → Value) :
    (arpRead s o v).isSome = (s.arpStatus == .ok && o.isSome) := by
  unfold arpRead
  split <;> simp_all

theorem payloadRead_isSome :
    (payloadRead s).isSome = (s.frameStatus == .ok && (s.hdr.payloadOff.isSome && s.hdr.payloadLen.isSome)) := by
  unfold payloadRead
  split
  case isTrue hok => cases s.hdr.payloadOff <;> cases s.hdr.payloadLen <;> simp [hok]
  case isFalse hne => simp [hne]

theorem trailingRead_isSome :
    (trailingRead s).isSome = (s.arpStatus == .ok && (s.arp.trailOff.isSome && s.arp.trailLen.isSome)) := by
  unfold trailingRead
  split
  case isTrue hok => cases s.arp.trailOff <;> cases s.arp.trailLen <;> simp [hok]
  case isFalse hne => simp [hne]

/-- `diag` can be read when one of the two records is valid: its flag has a value then (log 20). -/
theorem diagRead_isSome (hflag : s.frameStatus = .ok → s.hdr.wLenMismatch.isSome = true)
    (hunder : s.arpStatus = .ok → s.arp.wArpUnderlen.isSome = true) :
    (diagRead s).isSome = (s.frameStatus == .ok || s.arpStatus == .ok) := by
  unfold diagRead diagOf
  by_cases hf : s.frameStatus = .ok
  · obtain ⟨b, hb⟩ := Option.isSome_iff_exists.1 (hflag hf)
    simp [hf, hb]
  · by_cases ha : s.arpStatus = .ok
    · obtain ⟨b, hb⟩ := Option.isSome_iff_exists.1 (hunder ha)
      simp [hf, ha, hb]
    · simp [hf, ha]

/-- What a complete header says of each register. -/
theorem Header.complete_iff (h : Header) : h.complete = true ↔
    h.macDest.isSome ∧ h.macSrc.isSome ∧ h.etherType.isSome ∧ h.hdrLen.isSome ∧ h.payloadOff.isSome ∧ h.payloadLen.isSome ∧
      h.wLenMismatch.isSome ∧ h.vlanPresent = some h.vlanTag.isSome := by
  simp [Header.complete, and_assoc]

/-- What a complete record says of each register. -/
theorem ArpRecord.complete_iff (a : ArpRecord) : a.complete = true ↔
    a.hardwareType.isSome ∧ a.protocolType.isSome ∧ a.hardwareLen.isSome ∧ a.protocolLen.isSome ∧ a.operation.isSome ∧
      a.senderHwAddr.isSome ∧ a.senderProtoAddr.isSome ∧ a.targetHwAddr.isSome ∧ a.targetProtoAddr.isSome ∧
      a.arpConsumed.isSome ∧ a.trailOff.isSome ∧ a.trailLen.isSome ∧
      a.wArpUnderlen.isSome ∧ a.wArpTrailing.isSome ∧ a.wArpTrunc.isSome := by
  simp [ArpRecord.complete, and_assoc]

/-- A register of the two records has a value for the caller exactly when the table of 10 R41 calls it valid. -/
theorem regValue_isSome (hhdr : s.frameStatus = .ok → s.hdr.complete = true) (harp : s.arpStatus = .ok → s.arp.complete = true)
    (r : Reg) :
    (regValue s r).isSome = validTable s.frameStatus s.arpStatus (s.hdr.vlanPresent == some true) r := by
  rw [Header.complete_iff] at hhdr
  rw [ArpRecord.complete_iff] at harp
  cases r with
  | frameStatus | arpStatus => rfl
  | vlanTag =>
    simp only [regValue, headerRead_isSome, validTable]
    by_cases hok : s.frameStatus = .ok
    · simp [hok, hhdr hok]
    · simp [beq_false_of_ne hok]
  | macDest | macSrc | vlanPresent | etherType | hdrLen | payloadOff | payloadLen | wLenMismatch =>
    simp only [regValue, headerRead_isSome, validTable]
    by_cases hok : s.frameStatus = .ok <;> simp_all
  | payload =>
    simp only [regValue, payloadRead_isSome, validTable]
    by_cases hok : s.frameStatus = .ok <;> simp_all
  | trailing =>
    simp only [regValue, trailingRead_isSome, validTable]
    by_cases hok : s.arpStatus = .ok <;> simp_all
  | diag =>
    exact diagRead_isSome (fun hok => by simp [hhdr hok]) fun hok => by simp [harp hok]
  | hardwareType | protocolType | hardwareLen | protocolLen | operation | senderHwAddr | senderProtoAddr | targetHwAddr
  | targetProtoAddr | arpConsumed | trailOff | trailLen | wArpUnderlen | wArpTrailing | wArpTrunc =>
    simp only [regValue, arpRead_isSome, validTable]
    by_cases hok : s.arpStatus = .ok <;> simp_all

theorem readRegister_of_value {r : Reg} {v : Value} (h : regValue s r = some v) :
    readRegister r s = if r.isView then ifHeld s (.next (s.setAnswer v)) else .next (s.setAnswer v) := by
  rw [readRegister, h]

theorem readRegister_of_invalid {r : Reg} (h : regValue s r = none) : readRegister r s = .fault (.invalidRegister r) := by
  rw [readRegister, h]

end

/-- Settles O19: a register has a value exactly when the table calls it valid; the two views need the unchanged buffer too. -/
theorem readsFollowTheValidityTable : Obligations.ReadsFollowTheValidityTable := by
  intro s r hs _
  rw [← regValue_isSome hs.headerValid hs.recordValid]
  cases hv : regValue s r with
  | none => exact readRegister_of_invalid hv
  | some v =>
    refine ⟨v, rfl, fun hread => ?_, fun hview hchanged => ?_⟩ <;> rw [readRegister_of_value hv]
    · obtain hnot | hheld := hread
      · rw [hnot]
        rfl
      · rw [ifHeld, if_pos hheld, ite_self]
        rfl
    · rw [if_pos hview, ifHeld, hchanged]
      rfl

/-- Settles O13: after reset the table calls only the two status registers valid; the name table has its two keys. -/
theorem resetLeavesOnlyTheStatusRegistersReadable : Obligations.ResetLeavesOnlyTheStatusRegistersReadable := by
  refine ⟨rfl, rfl, rfl, fun r hframe harp => readRegister_of_invalid ?_, fun v => ?_⟩
  · rw [← Option.not_isSome_iff_eq_none, regValue_isSome (s := State.reset) nofun nofun]
    cases r with
    | frameStatus => exact absurd rfl hframe
    | arpStatus => exact absurd rfl harp
    | _ => decide
  · change symbolOf [(0x0800, .ipv4), (0x0806, .arp)] v = _
    simp only [symbolOf, eq_comm (a := v)]

end Sys2Proof.Machine
end

section
/-! The header stays faithful to the frame (41 R112 to R118, R122): every step keeps `HeaderFaithful`. -/

namespace Sys2Proof.Machine

/-! ## Runs of ArpDecoder leave FrameDecoder's result -/

/-- Two states with the same frame, the same result of FrameDecoder and the same claim on the buffer. -/
structure SameHeader (s t : State) : Prop where
  raw         : t.raw = s.raw
  hdr         : t.hdr = s.hdr
  frameStatus : t.frameStatus = s.frameStatus
  bufferHeld  : t.bufferHeld = s.bufferHeld

theorem SameHeader.refl (s : State) : SameHeader s s := ⟨rfl, rfl, rfl, rfl⟩

theorem SameHeader.trans {s t u : State} (h : SameHeader s t) (h' : SameHeader t u) : SameHeader s u :=
  ⟨h'.raw.trans h.raw, h'.hdr.trans h.hdr, h'.frameStatus.trans h.frameStatus, h'.bufferHeld.trans h.bufferHeld⟩

/-- After a failure of ArpDecoder there is no record and no run (60 R188). -/
def ArpFailureClean (t : State) : Prop := t.arpStatus = .tooShort → t.arp = ArpRecord.invalid ∧ t.cursor = none

theorem ArpMove.sameHeader {s t : State} (h : ArpMove s t) : SameHeader s t := by
  cases h <;> exact ⟨rfl, rfl, rfl, rfl⟩

theorem ArpMove.failureClean {s t : State} (h : ArpMove s t) (hs : ArpFailureClean s) (hcur : s.arpCursor = true) :
    ArpFailureClean t := by
  cases h with
  | goesOn a c n => exact fun hfailed => absurd (hs hfailed).2 (cursor_ne_none_of_arpCursor hcur)
  | fails => exact fun _ => ⟨rfl, rfl⟩

/-- ArpDecoder on the payload runs after a success of FrameDecoder and leaves its result; a failure leaves no record. -/
theorem arpRun_payload_next {s t : State} (h : arpRun .arpPayload s = .next t) :
    s.frameStatus = .ok ∧ s.bufferHeld = true ∧ SameHeader s t ∧ ArpFailureClean t := by
  cases hstart : startRun .arpPayload s with
  | next u =>
    obtain ⟨hok, hheld, -, -, hu⟩ := startArpPayload_next hstart
    have hstarted : SameHeader s u ∧ ArpFailureClean u := by
      subst hu
      exact ⟨⟨rfl, rfl, rfl, rfl⟩, nofun⟩
    have hrunning : arpFailed u = false := by
      subst hu
      rfl
    rw [arpRun, runSteps_cons_next hstart, hrunning] at h
    have hkeeps : ∀ f ∈ arpSteps ++ [decoderReturn .arp], ∀ v w, SameHeader s v ∧ ArpFailureClean v → f v = .next w →
        SameHeader s w ∧ ArpFailureClean w := by
      intro f hf v w hv hw
      rw [List.mem_append, List.mem_singleton] at hf
      obtain hf | rfl := hf
      · obtain ⟨hcur, hmove⟩ := arpSteps_move f hf v w hw
        exact ⟨hv.1.trans hmove.sameHeader, hmove.failureClean hv.2 hcur⟩
      · obtain ⟨-, -, rfl⟩ := decoderReturn_arp_next hw
        exact ⟨hv.1.trans ⟨rfl, rfl, rfl, rfl⟩, nofun⟩
    exact ⟨hok, hheld, runSteps_keeps hkeeps hstarted h⟩
  | fault r => simp [arpRun, runSteps, hstart] at h
  | refused r => simp [arpRun, runSteps, hstart] at h

/-! ## Operations that keep the header faithful -/

/-- The operation keeps the header faithful to the frame. -/
def KeepsFaithful (f : State → Out) : Prop := ∀ s, s.HeaderFaithful → Ensures (f s) State.HeaderFaithful

section
variable {s t : State}

theorem headerFaithful_of_matches (h : HeaderMatches s.raw s.hdr) : s.HeaderFaithful := fun _ _ => h

theorem headerFaithful_of_silent (hcur : s.frameCursor = false) (hstatus : s.frameStatus ≠ .ok) : s.HeaderFaithful := by
  rintro - (hrun | hok)
  · rw [hcur] at hrun
    cases hrun
  · exact absurd hok hstatus

/-- FrameDecoder's result of the same frame, no run of FrameDecoder: as faithful as before. -/
theorem SameHeader.faithful (h : SameHeader s t) (hs : s.HeaderFaithful) (hcur : t.frameCursor = true → s.frameCursor = true) :
    t.HeaderFaithful := by
  intro hheld hsays
  rw [h.raw, h.hdr]
  exact hs (h.bufferHeld ▸ hheld) (hsays.imp hcur fun hok => h.frameStatus ▸ hok)

theorem FrameMove.faithful (hmove : FrameMove s t) (hs : s.HeaderFaithful) (hcur : s.frameCursor = true) :
    t.HeaderFaithful := by
  cases hmove with
  | goesOn h c n faithful => exact fun hheld _ => faithful (hs hheld (.inl hcur))
  | fails => exact headerFaithful_of_silent rfl nofun

theorem ArpMove.faithful (hmove : ArpMove s t) (hs : s.HeaderFaithful) : t.HeaderFaithful := by
  refine hmove.sameHeader.faithful hs fun hcur => ?_
  cases hmove <;> cases hcur

theorem frameSuccess_faithful (h : s.raw.short = false) : (frameSuccess s).HeaderFaithful :=
  headerFaithful_of_matches (s.raw.header_matches h)

theorem frameFailure_faithful (s : State) : (frameFailure s).HeaderFaithful := headerFaithful_of_silent rfl nofun

end

theorem MovesFrame.keepsFaithful {f : State → Out} (hf : MovesFrame f) : KeepsFaithful f := fun s hs t ht =>
  (hf s t ht).2.faithful hs (hf s t ht).1

theorem MovesArp.keepsFaithful {f : State → Out} (hf : MovesArp f) : KeepsFaithful f := fun s hs t ht =>
  (hf s t ht).2.faithful hs

theorem execFrameDecode_keepsFaithful : KeepsFaithful execFrameDecode := fun s _ => by
  rw [execFrameDecode_eq]
  refine ensures_ite (fun _ => ensures_refused _) fun _ => ensures_next ?_
  split
  case isTrue => exact frameFailure_faithful s
  case isFalse hshort => exact frameSuccess_faithful (Bool.eq_false_of_not_eq_true hshort)

theorem execDemux_keepsFaithful : KeepsFaithful execDemux := fun s _ => by
  rw [execDemux_eq]
  refine ensures_ite (fun _ => ensures_refused _) fun _ => ensures_ite (fun _ => ensures_next (frameFailure_faithful s))
    fun hshort => ?_
  have hmatches := s.raw.header_matches (Bool.eq_false_of_not_eq_true hshort)
  refine ensures_ite (fun _ => ensures_next ?_) fun _ => ensures_next (headerFaithful_of_matches hmatches)
  split <;> exact headerFaithful_of_matches hmatches

theorem arpRun_payload_keepsFaithful : KeepsFaithful (arpRun .arpPayload) := fun s hs t ht => by
  obtain ⟨hok, hheld, hsame, -⟩ := arpRun_payload_next ht
  refine headerFaithful_of_matches ?_
  rw [hsame.raw, hsame.hdr]
  exact hs hheld (.inr hok)

theorem execArpDecode_keepsFaithful : ∀ src, KeepsFaithful (execArpDecode src)
  | .payload => arpRun_payload_keepsFaithful
  | .whole => fun s _ => by
      rw [execArpDecode, arpRun_whole_eq]
      refine ensures_next ?_
      split <;> exact headerFaithful_of_silent rfl nofun

theorem startRun_keepsFaithful : ∀ e, KeepsFaithful (startRun e)
  | .frame => fun s _ t ht => by
      obtain ⟨-, rfl⟩ := startFrame_next ht
      exact headerFaithful_of_matches (headerMatches_cleared s.raw)
  | .arpPayload => fun s hs t ht => by
      obtain ⟨hok, hheld, -, -, rfl⟩ := startArpPayload_next ht
      exact headerFaithful_of_matches (hs hheld (.inr hok))
  | .arpWhole => fun _ _ => ensures_next (headerFaithful_of_silent rfl nofun)

theorem decoderReturn_keepsFaithful : ∀ d, KeepsFaithful (decoderReturn d)
  | .frame => fun s hs t ht => by
      obtain ⟨⟨c, hcur⟩, hheld, rfl⟩ := decoderReturn_frame_next ht
      exact headerFaithful_of_matches (hs hheld (.inl (frameCursor_of_cursor hcur)))
  | .arp => fun s hs t ht => by
      obtain ⟨-, -, rfl⟩ := decoderReturn_arp_next ht
      exact SameHeader.faithful (s := s) ⟨rfl, rfl, rfl, rfl⟩ hs nofun

theorem finishFrame_keepsFaithful (etherType : Half) : KeepsFaithful (finishFrame etherType) := fun s hs t ht => by
  obtain ⟨hheld, ⟨c, n, hcur, -, rfl⟩ | ⟨-, -, -, rfl⟩⟩ := finishFrame_next ht
  · exact headerFaithful_of_matches ((hs hheld (.inl (frameCursor_of_cursor hcur))).write_wLenMismatch _)
  · exact hs

theorem execCpEtypeArp_keepsFaithful : KeepsFaithful execCpEtypeArp := fun s hs =>
  ensures_andThen (finishFrame_keepsFaithful _ s hs) fun u hu => arpRun_payload_keepsFaithful u hu

theorem notArp_keepsFaithful (etherType : Half) : KeepsFaithful (notArp etherType) := fun s hs =>
  ensures_andThen (finishFrame_keepsFaithful etherType s hs) fun _ hu =>
    ensures_next (SameHeader.faithful ⟨rfl, rfl, rfl, rfl⟩ hu id)

theorem setAnswer_faithful {s : State} (hs : s.HeaderFaithful) (v : Value) : (s.setAnswer v).HeaderFaithful := hs

theorem exec_keepsFaithful_of_answersOnly {i : Instr} (h : answersOnly i = true) : KeepsFaithful (exec i) :=
  fun s hs t ht => by
    obtain ⟨v, rfl⟩ := ((exec_answers h).only s).ensures t ht
    exact setAnswer_faithful hs v

/-! ## The code points of the ETH12 window, selected by the frame's bits -/

section
variable {s : State}

theorem execCpEth12Vlan_faithful (hs : s.HeaderFaithful) (htag : taggedBytes s.raw.bytes) :
    Ensures (execCpEth12Vlan s) State.HeaderFaithful :=
  ensures_inDecoder fun _ hcur hheld t ht => by
    have hkeeps : ∀ f ∈ taggedSteps, ∀ u v, u.HeaderFaithful → f u = .next v → v.HeaderFaithful :=
      fun f hf u v hu hv => (frameSteps_move f (taggedSteps_subset f hf)).keepsFaithful u hu v hv
    have hmatches := hs hheld (.inl (frameCursor_of_cursor hcur))
    exact runSteps_keeps hkeeps
      (headerFaithful_of_matches (hmatches.write_vlanPresent (iff_of_true rfl htag))) ht

theorem execCpEth12Plain_faithful (hs : s.HeaderFaithful) (htag : ¬ taggedBytes s.raw.bytes) {etherType : Half}
    (het : etherType.toNat = be16At s.raw.bytes 12) : Ensures (execCpEth12Plain etherType s) State.HeaderFaithful :=
  ensures_inDecoder fun _ hcur hheld => by
    have hmatches := hs hheld (.inl (frameCursor_of_cursor hcur))
    exact execFdPayload_moves.keepsFaithful _ (headerFaithful_of_matches
      ((hmatches.write_vlanPresent (iff_of_false Bool.false_ne_true htag)).write_etherType_untagged htag het))

/-- The code point that the 16 bits at offset 12 select. -/
theorem runWindow_eth12_faithful (hs : s.HeaderFaithful) : Ensures (runWindow .eth12 s) State.HeaderFaithful :=
  ensures_inDecoder fun _ _ _ => ensures_memRead16 fun hlen => by
    have htag := s.raw.tagged_iff hlen
    beta_reduce
    rw [decode_halfBytes]
    by_cases hv : be16 (s.raw.byte 12) (s.raw.byte 13) = Const.vlanMarker
    · rw [decodeHalf, if_pos hv]
      exact execCpEth12Vlan_faithful hs (htag.1 (beq_iff_eq.2 hv))
    · rw [decodeHalf, if_neg hv]
      exact execCpEth12Plain_faithful hs (fun h => hv (eq_of_beq (htag.2 h))) (be16At_raw s.raw 12 hlen).symm

end

/-! ## Every request -/

/-- A code point of the ETH12 window. -/
def isEth12 (i : Instr) : Prop := ∃ v, encodeHalf i = some (.eth12, v)

theorem exec_keepsFaithful : ∀ i, ¬ isEth12 i → KeepsFaithful (exec i)
  | .cpEth12Vlan, h | .cpEth12Plain _, h => absurd ⟨_, rfl⟩ h
  | .cpEtypeArp, _ => execCpEtypeArp_keepsFaithful
  | .cpEtypeLength etherType, _ | .cpEtypeOther etherType, _ => notArp_keepsFaithful etherType
  | .demux, _ => execDemux_keepsFaithful
  | .frameDecode, _ => execFrameDecode_keepsFaithful
  | .fdLenchk, _ => execFdLenchk_moves.keepsFaithful
  | .fdMacdst, _ => execFdMacdst_moves.keepsFaithful
  | .fdMacsrc, _ => execFdMacsrc_moves.keepsFaithful
  | .fdVlanpeek, _ => execFdVlanpeek_moves.keepsFaithful
  | .fdVlanchk, _ => execFdVlanchk_moves.keepsFaithful
  | .fdVlantag, _ => execFdVlantag_moves.keepsFaithful
  | .fdEtype, _ => execFdEtype_moves.keepsFaithful
  | .fdPayload, _ => execFdPayload_moves.keepsFaithful
  | .fdLenwarn, _ => execFdLenwarn_moves.keepsFaithful
  | .arpDecode src, _ => execArpDecode_keepsFaithful src
  | .adLenchk, _ => execAdLenchk_moves.keepsFaithful
  | .adHdrchk, _ => execAdHdrchk_moves.keepsFaithful
  | .adHtype, _ => execAdHtype_moves.keepsFaithful
  | .adPtype, _ => execAdPtype_moves.keepsFaithful
  | .adHlen, _ => execAdHlen_moves.keepsFaithful
  | .adPlen, _ => execAdPlen_moves.keepsFaithful
  | .adOper, _ => execAdOper_moves.keepsFaithful
  | .adSha, _ => execAdSha_moves.keepsFaithful
  | .adSpa, _ => execAdSpa_moves.keepsFaithful
  | .adTha, _ => execAdTha_moves.keepsFaithful
  | .adTpa, _ => execAdTpa_moves.keepsFaithful
  | .adTrunc, _ => execAdTrunc_moves.keepsFaithful
  | .adTrail, _ => execAdTrail_moves.keepsFaithful
  | .demuxSel, _ | .macFmt _, _ | .hexjoin _, _ | .dotted _, _ | .avHwname, _ | .avPtname, _ | .avSpaStr, _ | .avTpaStr, _
  | .avShaStr, _ | .avThaStr, _ | .avOpclass, _ | .cpHtypeEthernet, _ | .cpHtypeOther _, _ | .cpPtypeIpv4, _
  | .cpPtypeArp, _ | .cpPtypeOther _, _ | .cpOperRequest, _ | .cpOperReply, _ | .cpOperOther _, _ =>
    exec_keepsFaithful_of_answersOnly rfl

theorem not_isEth12_of_requestable {names : List (Half × Symbol)} {i : Instr} (h : i.requestable names = true) :
    ¬ isEth12 i := by
  rintro ⟨v, hv⟩
  cases i with
  | cpEth12Vlan | cpEth12Plain => cases h
  | _ => cases hv

theorem encodeHalf_of_decode {names : List (Half × Symbol)} {w : Window} {bytes : List Byte} {i : Instr}
    (h : decode names w bytes = .ok i) : ∃ v, encodeHalf i = some (w, v) := by
  match bytes, h with
  | hi :: lo :: _, h => exact ⟨_, (decodeHalf_sound h).2.1⟩

/-- The bits of every other window are two bytes that select a code point of that window. -/
theorem runWindow_keepsFaithful : ∀ w, KeepsFaithful (runWindow w)
  | .eth12 => fun _ hs => runWindow_eth12_faithful hs
  | .etype | .arpHtype | .arpPtype | .arpOper => fun s hs => ensures_windowBytes fun bytes => by
      split
      case h_1 i hi =>
        refine exec_keepsFaithful i ?_ s hs
        rintro ⟨v, hv⟩
        obtain ⟨v', hv'⟩ := encodeHalf_of_decode hi
        rw [hv] at hv'
        cases hv'
      case h_2 => exact ensures_refused _

theorem doOp_keepsFaithful : ∀ op, KeepsFaithful (doOp op)
  | .present _ => fun _ _ => ensures_next fun hheld => nomatch hheld
  | .run i => fun s hs => ensures_ite (fun hreq => exec_keepsFaithful i (not_isEth12_of_requestable hreq) s hs)
      fun _ => ensures_refused _
  | .select w => runWindow_keepsFaithful w
  | .start e => startRun_keepsFaithful e
  | .ret d => decoderReturn_keepsFaithful d
  | .read r => fun s hs t ht => by
      obtain ⟨v, -, -, rfl⟩ := readRegister_next ht
      exact setAnswer_faithful hs v
  | .reset => fun _ _ => ensures_next (headerFaithful_of_silent rfl nofun)

/-- Settles O18: every request keeps the header faithful; the invariant is not needed for it. -/
theorem stepKeepsTheHeaderFaithfulToTheFrame : Obligations.StepKeepsTheHeaderFaithfulToTheFrame := by
  intro s t _ hs ht
  cases hp : s.pending with
  | nil =>
    rw [step_idle hp] at ht
    cases ht
    exact hs
  | cons op rest =>
    rw [step_cons hp] at ht
    exact doOp_keepsFaithful op (s.setPending rest) hs t ht

/-- Settles O14: no register has a value after reset, no decoder runs and no buffer is held. -/
theorem resetMeetsTheInvariants : Obligations.ResetMeetsTheInvariants :=
  ⟨inv_reset, inOrder_reset, headerFaithful_of_silent rfl nofun⟩

end Sys2Proof.Machine
end

section
/-! Step-by-step runs end as the atomic operations do (41 R110, 42 R130, 40 R100): one induction over the requests of a run,
for which each request must treat what is outstanding behind it in one way only. -/

namespace Sys2Proof.Machine

/-! ## What an operation does with the outstanding requests -/

/-- The decoder has failed in this transaction. -/
def hasFailed : Decoder → State → Bool
  | .frame => frameFailed
  | .arp => arpFailed

/-- The same outcome with `q` outstanding: a failure has dropped from it what belongs to the decoder's run (log 8). -/
def withPending (d : Decoder) (q : List Op) : Out → Out
  | .next t => .next (t.setPending (if hasFailed d t then q.dropWhile (Op.partOf d) else q))
  | .fault r => .fault r
  | .refused r => .refused r

/-- With other requests outstanding the operation does the same. -/
def Pends (d : Decoder) (f : State → Out) : Prop :=
  ∀ u q, hasFailed d u = false → f (u.setPending q) = withPending d q (f u)

section
variable {α : Type} {d : Decoder} {q : List Op} {u : State}

/-- A step that goes on leaves what is outstanding. -/
theorem withPending_goesOn {t t' : State} (h : hasFailed d t = false) (ht : t' = t.setPending q := by rfl) :
    .next t' = withPending d q (.next t) := by
  rw [withPending, h, ht]
  rfl

/-- A failure drops what belongs to the run. -/
theorem withPending_fails {t : State} (h : hasFailed d t = true) :
    withPending d q (.next t) = .next (t.setPending (q.dropWhile (Op.partOf d))) := by
  rw [withPending, h]
  rfl

theorem withPending_ite {c : Prop} [Decidable c] {a b a' b' : Out} (ha : c → a' = withPending d q a)
    (hb : ¬ c → b' = withPending d q b) : (if c then a' else b') = withPending d q (if c then a else b) := by
  split
  · exact ha ‹_›
  · exact hb ‹_›

theorem withPending_need {o : Option α} {r : Reg} {k k' : α → Out} (h : ∀ v, k' v = withPending d q (k v)) :
    need o r k' = withPending d q (need o r k) := by
  cases o with
  | none => rfl
  | some v => exact h v

theorem withPending_validHdr {f : Header → Option α} {r : Reg} {k k' : α → Out} (h : ∀ v, k' v = withPending d q (k v)) :
    validHdr (u.setPending q) f r k' = withPending d q (validHdr u f r k) :=
  withPending_ite (fun _ => withPending_need h) fun _ => rfl

theorem withPending_ifHeld {k k' : Out} (h : k' = withPending d q k) :
    ifHeld (u.setPending q) k' = withPending d q (ifHeld u k) :=
  withPending_ite (fun _ => h) fun _ => rfl

theorem withPending_inDecoder {d' : Decoder} {n : Nat} {k k' : Nat → Out} (h : ∀ c, k' c = withPending d q (k c)) :
    inDecoder d' n (u.setPending q) k' = withPending d q (inDecoder d' n u k) := by
  unfold inDecoder
  rw [State.setPending_cursor]
  cases u.cursor with
  | none => rfl
  | some c =>
    exact withPending_ite (fun _ => withPending_ifHeld (withPending_ite (fun _ => h c.off) fun _ => rfl)) fun _ => rfl

theorem withPending_memRead8 {a : Nat} {k k' : Byte → Out} (h : ∀ v, k' v = withPending d q (k v)) :
    memRead8 (u.setPending q) a k' = withPending d q (memRead8 u a k) :=
  withPending_ite (fun _ => h _) fun _ => rfl

theorem withPending_memRead16 {a : Nat} {k k' : Half → Out} (h : ∀ v, k' v = withPending d q (k v)) :
    memRead16 (u.setPending q) a k' = withPending d q (memRead16 u a k) :=
  withPending_ite (fun _ => h _) fun _ => rfl

theorem withPending_memRead32 {a : Nat} {k k' : Word → Out} (h : ∀ v, k' v = withPending d q (k v)) :
    memRead32 (u.setPending q) a k' = withPending d q (memRead32 u a k) :=
  withPending_ite (fun _ => h _) fun _ => rfl

theorem withPending_memMac {a : Nat} {k k' : Mac → Out} (h : ∀ v, k' v = withPending d q (k v)) :
    memMac (u.setPending q) a k' = withPending d q (memMac u a k) :=
  withPending_ite (fun _ => h _) fun _ => rfl

end

theorem hasFailed_setPending (d : Decoder) (t : State) (q : List Op) : hasFailed d (t.setPending q) = hasFailed d t := by
  cases d <;> rfl

section
variable {d : Decoder} {steps : List (State → Out)}

theorem runSteps_cons_pends {f : State → Out} {u : State} {q : List Op} (hf : f (u.setPending q) = withPending d q (f u))
    (hrest : ∀ t, hasFailed d t = false →
      runSteps (hasFailed d) steps (t.setPending q) = withPending d q (runSteps (hasFailed d) steps t)) :
    runSteps (hasFailed d) (f :: steps) (u.setPending q) = withPending d q (runSteps (hasFailed d) (f :: steps) u) := by
  simp only [runSteps, hf]
  cases f u with
  | fault r | refused r => rfl
  | next t =>
    cases ht : hasFailed d t with
    | true => simp [withPending, ht, hasFailed_setPending]
    | false => simpa [withPending, ht, hasFailed_setPending] using hrest t ht

/-- A run of such steps is such an operation: it stops at a failure, and goes on with the outstanding requests otherwise. -/
theorem runSteps_pends (h : ∀ f ∈ steps, Pends d f) : Pends d (runSteps (hasFailed d) steps) := by
  intro u q hu
  induction steps generalizing u with
  | nil => exact withPending_goesOn hu
  | cons f rest ih =>
    obtain ⟨hf, hrest⟩ := List.forall_mem_cons.1 h
    exact runSteps_cons_pends (hf u q hu) (ih hrest)

end

/-! ## A run of requests is a run of steps -/

/-- A request of a decoder's run carries out the step `f` of it. -/
structure Carries (d : Decoder) (op : Op) (f : State → Out) : Prop where
  runs  : ∀ u, doOp op u = f u
  part  : Op.partOf d op = true
  pends : Pends d f

theorem dropWhile_partOf {d : Decoder} {ops : List Op} (h : ∀ op ∈ ops, Op.partOf d op = true) (rest : List Op) :
    (ops ++ rest).dropWhile (Op.partOf d) = rest.dropWhile (Op.partOf d) := by
  induction ops with
  | nil => rfl
  | cons op ops ih =>
    obtain ⟨hop, hops⟩ := List.forall_mem_cons.1 h
    rw [List.cons_append, List.dropWhile_cons_of_pos hop, ih hops]

theorem carries_partOf {d : Decoder} {ops : List Op} {fs : List (State → Out)} (h : List.Forall₂ (Carries d) ops fs) :
    ∀ op ∈ ops, Op.partOf d op = true := by
  induction h with
  | nil => exact fun _ hop => nomatch hop
  | cons hc _ ih => exact List.forall_mem_cons.2 ⟨hc.part, ih⟩

theorem step_setPending_cons (s : State) (op : Op) (rest : List Op) :
    step (s.setPending (op :: rest)) = doOp op (s.setPending rest) := rfl

/-- One request and the requests after it: as the step it carries out and the steps after that. -/
theorem stepsFor_cons {d : Decoder} {op : Op} {f : State → Out} {ops : List Op} {fs : List (State → Out)} {rest : List Op}
    {s : State} (hop : ∀ u, doOp op u = f u) (hf : ∀ q, f (s.setPending q) = withPending d q (f s))
    (hops : ∀ op ∈ ops, Op.partOf d op = true)
    (hrest : ∀ t, hasFailed d t = false →
      ∃ n, stepsFor n (t.setPending (ops ++ rest)) = runSteps (hasFailed d) fs (t.setPending rest)) :
    ∃ n, stepsFor n (s.setPending (op :: ops ++ rest)) = runSteps (hasFailed d) (f :: fs) (s.setPending rest) := by
  have hstep : step (s.setPending (op :: ops ++ rest)) = withPending d (ops ++ rest) (f s) := by
    rw [List.cons_append, step_setPending_cons, hop, hf]
  cases hs : f s with
  | fault r =>
    rw [hs] at hstep
    exact ⟨1, by rw [stepsFor_fault hstep]; simp [runSteps, hf, hs, withPending]⟩
  | refused r =>
    rw [hs] at hstep
    exact ⟨1, by rw [stepsFor_refused hstep]; simp [runSteps, hf, hs, withPending]⟩
  | next t =>
    rw [hs] at hstep
    cases ht : hasFailed d t with
    | true =>
      exact ⟨1, by rw [stepsFor_next hstep]; simp [stepsFor, runSteps, hf, hs, withPending, ht, hasFailed_setPending,
        dropWhile_partOf hops]⟩
    | false =>
      obtain ⟨n, hn⟩ := hrest t ht
      exact ⟨n + 1, by rw [stepsFor_next hstep]; simp [runSteps, hf, hs, withPending, ht, hasFailed_setPending, hn]⟩

theorem stepsFor_ops {d : Decoder} {ops : List Op} {fs : List (State → Out)} (h : List.Forall₂ (Carries d) ops fs)
    (rest : List Op) (s : State) (hs : hasFailed d s = false) :
    ∃ n, stepsFor n (s.setPending (ops ++ rest)) = runSteps (hasFailed d) fs (s.setPending rest) := by
  induction h generalizing s with
  | nil => exact ⟨0, rfl⟩
  | cons hc htail ih => exact stepsFor_cons hc.runs (fun q => hc.pends s q hs) (carries_partOf htail) ih

/-- A start, which clears an earlier failure, and the requests of the run. -/
theorem stepsFor_run {d : Decoder} {op : Op} {f : State → Out} {ops : List Op} {fs : List (State → Out)} {rest : List Op}
    {s : State} (hop : ∀ u, doOp op u = f u) (hf : ∀ q, f (s.setPending q) = withPending d q (f s))
    (h : List.Forall₂ (Carries d) ops fs) :
    ∃ n, stepsFor n (s.setPending (op :: ops ++ rest)) = runSteps (hasFailed d) (f :: fs) (s.setPending rest) :=
  stepsFor_cons hop hf (carries_partOf h) (stepsFor_ops h rest)

/-! ## The steps and the returns -/

theorem startFrame_pends (s : State) (q : List Op) : startFrame (s.setPending q) = withPending .frame q (startFrame s) :=
  withPending_ite (fun _ => rfl) fun _ => rfl

theorem startArpPayload_pends (s : State) (q : List Op) :
    startArpPayload (s.setPending q) = withPending .arp q (startArpPayload s) :=
  withPending_validHdr fun _ => withPending_validHdr fun _ => withPending_ifHeld rfl

theorem startArpWhole_pends (s : State) (q : List Op) : startArpWhole (s.setPending q) = withPending .arp q (startArpWhole s) :=
  rfl

theorem execFdLenchk_pends : Pends .frame execFdLenchk := fun _ _ hu =>
  withPending_inDecoder fun _ => withPending_ite (fun _ => rfl) fun _ => withPending_goesOn hu

theorem execFdMacdst_pends : Pends .frame execFdMacdst := fun _ _ hu =>
  withPending_inDecoder fun _ => withPending_memMac fun _ => withPending_goesOn hu

theorem execFdMacsrc_pends : Pends .frame execFdMacsrc := fun _ _ hu =>
  withPending_inDecoder fun _ => withPending_memMac fun _ => withPending_goesOn hu

theorem execFdVlanpeek_pends : Pends .frame execFdVlanpeek := fun _ _ hu =>
  withPending_inDecoder fun _ => withPending_memRead16 fun _ => withPending_goesOn hu

theorem execFdVlanchk_pends : Pends .frame execFdVlanchk := fun _ _ hu =>
  withPending_inDecoder fun _ => withPending_need fun _ => withPending_ite (fun _ => rfl) fun _ => withPending_goesOn hu

theorem execFdVlantag_pends : Pends .frame execFdVlantag := fun _ _ hu =>
  withPending_inDecoder fun _ => withPending_need fun _ =>
    withPending_ite (fun _ => withPending_memRead32 fun _ => withPending_goesOn hu) fun _ => withPending_goesOn hu

theorem execFdEtype_pends : Pends .frame execFdEtype := fun _ _ hu =>
  withPending_inDecoder fun _ => withPending_need fun _ =>
    withPending_ite (fun _ => withPending_memRead16 fun _ => withPending_goesOn hu) fun _ =>
      withPending_memRead16 fun _ => withPending_goesOn hu

theorem execFdPayload_pends : Pends .frame execFdPayload := fun _ _ hu =>
  withPending_inDecoder fun _ => withPending_need fun _ => withPending_ite (fun _ => withPending_goesOn hu) fun _ => rfl

theorem execFdLenwarn_pends : Pends .frame execFdLenwarn := fun _ _ hu =>
  withPending_inDecoder fun _ => withPending_need fun _ => withPending_need fun _ => withPending_goesOn hu

theorem decoderReturn_frame_pends : Pends .frame (decoderReturn .frame) := fun _ _ _ =>
  withPending_inDecoder fun _ => rfl

theorem execAdLenchk_pends : Pends .arp execAdLenchk := fun _ _ hu =>
  withPending_inDecoder fun _ => withPending_goesOn hu

theorem execAdHdrchk_pends : Pends .arp execAdHdrchk := fun _ _ hu =>
  withPending_inDecoder fun _ => withPending_ite (fun _ => rfl) fun _ => withPending_goesOn hu

theorem execAdHtype_pends : Pends .arp execAdHtype := fun _ _ hu =>
  withPending_inDecoder fun _ => withPending_memRead16 fun _ => withPending_goesOn hu

theorem execAdPtype_pends : Pends .arp execAdPtype := fun _ _ hu =>
  withPending_inDecoder fun _ => withPending_memRead16 fun _ => withPending_goesOn hu

theorem execAdHlen_pends : Pends .arp execAdHlen := fun _ _ hu =>
  withPending_inDecoder fun _ => withPending_memRead8 fun _ => withPending_goesOn hu

theorem execAdPlen_pends : Pends .arp execAdPlen := fun _ _ hu =>
  withPending_inDecoder fun _ => withPending_memRead8 fun _ => withPending_goesOn hu

theorem execAdOper_pends : Pends .arp execAdOper := fun _ _ hu =>
  withPending_inDecoder fun _ => withPending_memRead16 fun _ => withPending_goesOn hu

theorem execAdSha_pends : Pends .arp execAdSha := fun _ _ hu =>
  withPending_inDecoder fun _ => withPending_need fun _ => withPending_goesOn hu

theorem execAdSpa_pends : Pends .arp execAdSpa := fun _ _ hu =>
  withPending_inDecoder fun _ => withPending_need fun _ => withPending_goesOn hu

theorem execAdTha_pends : Pends .arp execAdTha := fun _ _ hu =>
  withPending_inDecoder fun _ => withPending_need fun _ => withPending_goesOn hu

theorem execAdTpa_pends : Pends .arp execAdTpa := fun _ _ hu =>
  withPending_inDecoder fun _ => withPending_need fun _ => withPending_goesOn hu

theorem execAdTrunc_pends : Pends .arp execAdTrunc := fun _ _ hu =>
  withPending_inDecoder fun _ => withPending_need fun _ => withPending_goesOn hu

theorem execAdTrail_pends : Pends .arp execAdTrail := fun _ _ hu =>
  withPending_inDecoder fun _ => withPending_need fun _ => withPending_goesOn hu

theorem decoderReturn_arp_pends : Pends .arp (decoderReturn .arp) := fun _ _ _ =>
  withPending_inDecoder fun _ => rfl

/-! ## FRAME_DECODE and ARP_DECODE step by step -/

/-- The requests of FrameDecoder's run after its start carry out its steps and its return. -/
theorem frameStepwise_carries :
    List.Forall₂ (Carries .frame) frameStepwise.tail (frameSteps ++ [decoderReturn .frame]) :=
  .cons ⟨fun _ => rfl, rfl, execFdLenchk_pends⟩ <| .cons ⟨fun _ => rfl, rfl, execFdMacdst_pends⟩ <|
  .cons ⟨fun _ => rfl, rfl, execFdMacsrc_pends⟩ <| .cons ⟨fun _ => rfl, rfl, execFdVlanpeek_pends⟩ <|
  .cons ⟨fun _ => rfl, rfl, execFdVlanchk_pends⟩ <| .cons ⟨fun _ => rfl, rfl, execFdVlantag_pends⟩ <|
  .cons ⟨fun _ => rfl, rfl, execFdEtype_pends⟩ <| .cons ⟨fun _ => rfl, rfl, execFdPayload_pends⟩ <|
  .cons ⟨fun _ => rfl, rfl, execFdLenwarn_pends⟩ <| .cons ⟨fun _ => rfl, rfl, decoderReturn_frame_pends⟩ .nil

/-- The requests of ArpDecoder's run after its start carry out its steps and its return. -/
theorem arpStepwise_carries (e : Entry) :
    List.Forall₂ (Carries .arp) (arpStepwise e).tail (arpSteps ++ [decoderReturn .arp]) :=
  .cons ⟨fun _ => rfl, rfl, execAdLenchk_pends⟩ <| .cons ⟨fun _ => rfl, rfl, execAdHdrchk_pends⟩ <|
  .cons ⟨fun _ => rfl, rfl, execAdHtype_pends⟩ <| .cons ⟨fun _ => rfl, rfl, execAdPtype_pends⟩ <|
  .cons ⟨fun _ => rfl, rfl, execAdHlen_pends⟩ <| .cons ⟨fun _ => rfl, rfl, execAdPlen_pends⟩ <|
  .cons ⟨fun _ => rfl, rfl, execAdOper_pends⟩ <| .cons ⟨fun _ => rfl, rfl, execAdSha_pends⟩ <|
  .cons ⟨fun _ => rfl, rfl, execAdSpa_pends⟩ <| .cons ⟨fun _ => rfl, rfl, execAdTha_pends⟩ <|
  .cons ⟨fun _ => rfl, rfl, execAdTpa_pends⟩ <| .cons ⟨fun _ => rfl, rfl, execAdTrunc_pends⟩ <|
  .cons ⟨fun _ => rfl, rfl, execAdTrail_pends⟩ <| .cons ⟨fun _ => rfl, rfl, decoderReturn_arp_pends⟩ .nil

theorem stepsFor_frameStepwise (s : State) (rest : List Op) :
    ∃ n, stepsFor n (s.setPending (frameStepwise ++ rest)) = execFrameDecode (s.setPending rest) :=
  stepsFor_run (op := .start .frame) (f := startFrame) (fun _ => rfl) (startFrame_pends s) frameStepwise_carries

/-- Settles O9: the induction over the requests of FrameDecoder's run. -/
theorem frameDecodeEqualsItsStepsOneByOne : Obligations.FrameDecodeEqualsItsStepsOneByOne := stepsFor_frameStepwise

/-- Settles O11: the induction over the requests of ArpDecoder's run, from both starts. -/
theorem arpDecodeEqualsItsStepsOneByOne : Obligations.ArpDecodeEqualsItsStepsOneByOne := fun s _ =>
  ⟨stepsFor_run (f := startRun .arpPayload) (fun _ => rfl) (startArpPayload_pends s) (arpStepwise_carries .arpPayload),
    stepsFor_run (f := startRun .arpWhole) (fun _ => rfl) (startArpWhole_pends s) (arpStepwise_carries .arpWhole)⟩

end Sys2Proof.Machine
end

section
/-! The code points of the ETH12 and ETYPE windows (30 R83, R84): each stands for steps of FrameDecoder and for the
demultiplexing, and so the runs through code points end as the atomic operations do. -/

namespace Sys2Proof.Machine

/-! ## Runs in two parts -/

theorem andThen_assoc (o : Out) (f g : State → Out) : andThen (andThen o f) g = andThen o fun t => andThen (f t) g := by
  cases o <;> rfl

section
variable {failed : State → Bool} {s : State}

/-- A run: its first step, and the rest unless that failed. -/
theorem runSteps_cons (f : State → Out) (l : List (State → Out)) :
    runSteps failed (f :: l) s = andThen (f s) fun t => if failed t then .next t else runSteps failed l t := by
  simp only [runSteps]
  cases f s <;> rfl

theorem runSteps_goesOn {f : State → Out} {l : List (State → Out)} {t : State} (h : f s = .next t) (ht : failed t = false) :
    runSteps failed (f :: l) s = runSteps failed l t := by
  rw [runSteps_cons_next h, ht]
  rfl

theorem runSteps_singleton (f : State → Out) : runSteps failed [f] s = f s := by
  simp only [runSteps]
  cases f s with
  | fault r | refused r => rfl
  | next t => exact ite_self _

theorem runSteps_append {l l' : List (State → Out)} (hs : failed s = false) :
    runSteps failed (l ++ l') s =
      andThen (runSteps failed l s) fun t => if failed t then .next t else runSteps failed l' t := by
  induction l generalizing s with
  | nil => simp [runSteps, andThen, hs]
  | cons f rest ih =>
    simp only [List.cons_append, runSteps]
    cases f s with
    | fault r | refused r => rfl
    | next t =>
      cases ht : failed t with
      | true => simp [andThen, ht]
      | false => simpa [ht] using ih ht

/-- The first step may clear an earlier failure. -/
theorem runSteps_cons_append {f : State → Out} {l l' : List (State → Out)} :
    runSteps failed (f :: l ++ l') s =
      andThen (runSteps failed (f :: l) s) fun t => if failed t then .next t else runSteps failed l' t := by
  simp only [List.cons_append, runSteps]
  cases f s with
  | fault r | refused r => rfl
  | next t =>
    cases ht : failed t with
    | true => simp [andThen, ht]
    | false => simpa [ht] using runSteps_append ht

theorem runSteps_cons_congr {f : State → Out} {l l' : List (State → Out)}
    (h : ∀ t, failed t = false → runSteps failed l t = runSteps failed l' t) :
    runSteps failed (f :: l) s = runSteps failed (f :: l') s := by
  simp only [runSteps]
  cases f s with
  | fault r | refused r => rfl
  | next t =>
    cases ht : failed t with
    | true => simp [ht]
    | false => simpa [ht] using h t ht

/-- What a run without a failure has done last. -/
theorem runSteps_concat_next {f g : State → Out} {l : List (State → Out)} {t : State}
    (h : runSteps failed (f :: l ++ [g]) s = .next t) (ht : failed t = false) : ∃ u, g u = .next t := by
  rw [runSteps_cons_append] at h
  obtain ⟨u, -, h⟩ := andThen_next h
  split at h
  case isTrue hu =>
    cases h
    rw [hu] at ht
    cases ht
  case isFalse =>
    rw [runSteps_singleton] at h
    exact ⟨u, h⟩

end

/-! ## The ETH12 window stands for the steps from FD.VLANPEEK to FD.PAYLOAD -/

/-- The steps that the code points of the ETH12 window stand for. -/
def headerSteps : List (State → Out) := execFdVlanpeek :: taggedSteps

/-- In an untagged header the length check and the tag's step only go on, and the EtherType stands at offset 12. -/
theorem taggedSteps_untagged {s : State} {c : Nat} (hat : s.FrameAt 4 c) (hs : frameFailed s = false)
    (htag : s.hdr.vlanPresent = some false) (hlen : 14 ≤ s.raw.len) :
    runSteps frameFailed taggedSteps s =
      execFdPayload ((s.setHdr { s.hdr with etherType := some (be16 (s.raw.byte 12) (s.raw.byte 13)) }).reach .frame 14 7) := by
  have hchk : execFdVlanchk s = .next (s.reach .frame c 5) := by
    rw [execFdVlanchk, hat.inDecoder_eq, htag, need_some, Bool.false_and, if_neg Bool.false_ne_true]
  have htag5 : execFdVlantag (s.reach .frame c 5) = .next ((s.reach .frame c 5).reach .frame c 6) :=
    execFdVlantag_untagged ⟨hat.1, rfl⟩ htag
  have hetype := execFdEtype_untagged (s := (s.reach .frame c 5).reach .frame c 6) ⟨hat.1, rfl⟩ htag hlen
  rw [taggedSteps, runSteps_goesOn hchk hs, runSteps_goesOn htag5 hs, runSteps_goesOn hetype hs, runSteps_singleton]
  rfl

section
variable {s : State}

theorem andThen_inDecoder (d : Decoder) (n : Nat) (k : Nat → Out) (g : State → Out) :
    andThen (inDecoder d n s k) g = inDecoder d n s fun c => andThen (k c) g := by
  unfold inDecoder ifHeld
  split
  · split_ifs <;> rfl
  · rfl

theorem andThen_memRead16 (a : Nat) (k : Half → Out) (g : State → Out) :
    andThen (memRead16 s a k) g = memRead16 s a fun v => andThen (k v) g := by
  unfold memRead16
  split <;> rfl

theorem andThen_need {α : Type} (o : Option α) (r : Reg) (k : α → Out) (g : State → Out) :
    andThen (need o r k) g = need o r fun v => andThen (k v) g := by
  cases o <;> rfl

/-- What follows the guard of a step matters only where the decoder has reached that step. -/
theorem inDecoder_congr {d : Decoder} {n : Nat} {k k' : Nat → Out}
    (h : ∀ c, s.cursor = some ⟨d, c, n⟩ → s.bufferHeld = true → k c = k' c) : inDecoder d n s k = inDecoder d n s k' := by
  unfold inDecoder ifHeld
  split
  next c hc =>
    split_ifs with howner hheld hdone
    · exact h c.off (by rw [hc, ← howner, ← hdone]) hheld
    all_goals rfl
  next => rfl

theorem memRead16_congr {a : Nat} {k k' : Half → Out}
    (h : a + 2 ≤ s.raw.len → k (be16 (s.raw.byte a) (s.raw.byte (a + 1))) = k' (be16 (s.raw.byte a) (s.raw.byte (a + 1)))) :
    memRead16 s a k = memRead16 s a k' := by
  unfold memRead16
  split
  · exact h ‹_›
  · rfl

theorem need_congr {α : Type} {o : Option α} {r : Reg} {k k' : α → Out} (h : ∀ v, o = some v → k v = k' v) :
    need o r k = need o r k' := by
  cases o with
  | none => rfl
  | some v => exact h v rfl

theorem windowBytes_eth12 (k : List Byte → Out) :
    windowBytes .eth12 s k = inDecoder .frame 3 s fun _ => memRead16 s 12 fun v => k (halfBytes v) := rfl

/-- The ETH12 window's code point does what the five steps do (30 R83, log 12). -/
theorem runWindow_eth12_eq (hs : frameFailed s = false) : runWindow .eth12 s = runSteps frameFailed headerSteps s := by
  rw [headerSteps, runSteps_cons, execFdVlanpeek, andThen_inDecoder]
  rw [runWindow, windowBytes_eth12]
  refine inDecoder_congr fun c hcur hheld => ?_
  rw [andThen_memRead16]
  refine memRead16_congr fun hlen => ?_
  rw [decode_halfBytes, andThen]
  by_cases hv : be16 (s.raw.byte 12) (s.raw.byte 13) = Const.vlanMarker
  · rw [decodeHalf, if_pos hv, hv]
    change execCpEth12Vlan s = ite (frameFailed s = true) _ _
    rw [execCpEth12Vlan, inDecoder_reached hcur hheld, hs]
    rfl
  · rw [decodeHalf, if_neg hv, beq_false_of_ne hv]
    change execCpEth12Plain _ s = ite (frameFailed s = true) _ _
    rw [execCpEth12Plain, inDecoder_reached hcur hheld, hs, if_neg Bool.false_ne_true]
    exact (taggedSteps_untagged (s := (s.setHdr { s.hdr with vlanPresent := some false }).reach .frame c 4) ⟨hheld, rfl⟩ hs
      rfl hlen).symm

end

theorem headerSteps_pends : Pends .frame (runSteps frameFailed headerSteps) := by
  refine runSteps_pends (d := .frame) ?_
  simp only [headerSteps, taggedSteps, List.forall_mem_cons]
  exact ⟨execFdVlanpeek_pends, execFdVlanchk_pends, execFdVlantag_pends, execFdEtype_pends, execFdPayload_pends,
    List.forall_mem_nil _⟩

theorem runWindow_eth12_pends : Pends .frame (runWindow .eth12) := fun u q hu => by
  rw [runWindow_eth12_eq hu, runWindow_eth12_eq (s := u.setPending q) hu]
  exact headerSteps_pends u q hu

/-! ## FRAME_DECODE through the ETH12 code point -/

/-- FrameDecoder from its start to offset 12, whose 16 bits the ETH12 window holds. -/
def toEth12 : List (State → Out) := [startFrame, execFdLenchk, execFdMacdst, execFdMacsrc]

/-- The end of FrameDecoder, which an EtherType's code point carries out too. -/
def frameEnd : List (State → Out) := [execFdLenwarn, decoderReturn .frame]

theorem execFrameDecode_parts (s : State) :
    execFrameDecode s = runSteps frameFailed (toEth12 ++ headerSteps ++ frameEnd) s := rfl

/-- In a run that has begun the code point stands for its steps. -/
theorem runSteps_codePoint (l : List (State → Out)) (s : State) :
    runSteps frameFailed (toEth12 ++ runWindow .eth12 :: l) s = runSteps frameFailed (toEth12 ++ headerSteps ++ l) s := by
  refine runSteps_cons_congr fun t _ => runSteps_cons_congr fun t _ => runSteps_cons_congr fun t _ =>
    runSteps_cons_congr fun t ht => ?_
  change runSteps frameFailed (runWindow .eth12 :: l) t = runSteps frameFailed (headerSteps ++ l) t
  rw [runSteps_append ht, runSteps_cons, runWindow_eth12_eq ht]

/-- The requests from FD.LENCHK to the code point of the ETH12 window. -/
theorem eth12_carries {ops : List Op} {fs : List (State → Out)} (h : List.Forall₂ (Carries .frame) ops fs) :
    List.Forall₂ (Carries .frame) (.run .fdLenchk :: .run .fdMacdst :: .run .fdMacsrc :: .select .eth12 :: ops)
      (execFdLenchk :: execFdMacdst :: execFdMacsrc :: runWindow .eth12 :: fs) :=
  .cons ⟨fun _ => rfl, rfl, execFdLenchk_pends⟩ <| .cons ⟨fun _ => rfl, rfl, execFdMacdst_pends⟩ <|
  .cons ⟨fun _ => rfl, rfl, execFdMacsrc_pends⟩ <| .cons ⟨fun _ => rfl, rfl, runWindow_eth12_pends⟩ h

/-- Settles O10: the induction over the requests, with the code point in the place of its steps. -/
theorem frameDecodeEqualsItsCodePointForm : Obligations.FrameDecodeEqualsItsCodePointForm := by
  intro s rest
  have hcarries : List.Forall₂ (Carries .frame) [.run .fdLenwarn, .ret .frame] frameEnd :=
    .cons ⟨fun _ => rfl, rfl, execFdLenwarn_pends⟩ <| .cons ⟨fun _ => rfl, rfl, decoderReturn_frame_pends⟩ .nil
  obtain ⟨n, hn⟩ := stepsFor_run (op := .start .frame) (f := startFrame) (rest := rest) (fun _ => rfl) (startFrame_pends s)
    (eth12_carries hcarries)
  exact ⟨n, hn.trans (runSteps_codePoint frameEnd (s.setPending rest))⟩

end Sys2Proof.Machine
end

section
/-! The ETYPE window (30 R84) ends FrameDecoder and demultiplexes as DEMUX does (40 R100, R101), in a run and after it;
DEMUX step by step and by code points. -/

namespace Sys2Proof.Machine

/-! ## What an EtherType decides -/

/-- ArpDecoder on the payload, or an opaque payload (40 R101, R102). -/
def afterEtype (etherType : Half) (s : State) : Out :=
  if selectsArp etherType then arpRun .arpPayload s else .next (payloadOpaque s)

/-- What DEMUX does after FrameDecoder (40 R100, R104). -/
def afterFrame (s : State) : Out :=
  if frameFailed s then .next s else validHdr s (·.etherType) .etherType fun et => afterEtype et s

theorem execDemux_parts (s : State) : execDemux s = andThen (execFrameDecode s) afterFrame := rfl

theorem selectsArp_iff (v : Half) : selectsArp v = true ↔ v = Const.etypeArp := beq_iff_eq

/-- Whatever an EtherType decodes to, its code point ends FrameDecoder and demultiplexes. -/
theorem exec_of_decode_etype {names : List (Half × Symbol)} {v : Half} {i : Instr} (h : decodeHalf names .etype v = .ok i)
    (s : State) : exec i s = andThen (finishFrame v s) (afterEtype v) := by
  simp only [decodeHalf] at h
  split at h
  case isTrue hv =>
    cases h
    rw [hv]
    rfl
  case isFalse hv =>
    have hnot : afterEtype v = fun t => .next (payloadOpaque t) := by
      funext t
      rw [afterEtype, if_neg (mt (selectsArp_iff v).1 hv)]
    rw [hnot]
    split at h <;> cases h <;> rfl

/-- What a window's bytes make the block do (30 R88). -/
def runSelected (w : Window) (s : State) (bytes : List Byte) : Out :=
  match decode s.cfg.etypeNames w bytes with
  | .ok i => exec i s
  | .error r => .refused (.noCodePoint r)

theorem runWindow_eq (w : Window) (s : State) : runWindow w s = windowBytes w s (runSelected w s) := rfl

theorem runSelected_ok {w : Window} {s : State} {bytes : List Byte} {i : Instr}
    (h : decode s.cfg.etypeNames w bytes = .ok i) : runSelected w s bytes = exec i s := by
  rw [runSelected, h]

theorem runSelected_etype (v : Half) (s : State) :
    runSelected .etype s (halfBytes v) = andThen (finishFrame v s) (afterEtype v) := by
  obtain ⟨i, hi⟩ := decodeHalf_total (names := s.cfg.etypeNames) (w := .etype) (v := v) nofun
  rw [runSelected_ok (by rw [decode_halfBytes, hi])]
  exact exec_of_decode_etype hi s

/-! ## The ETYPE window after the return and in a run -/

section
variable {s : State}

theorem finishFrame_after_return {v et : Half} (hcur : s.cursor = none) (hok : s.frameStatus = .ok) (hheld : s.bufferHeld = true)
    (het : s.hdr.etherType = some et) : finishFrame v s = .next s := by
  unfold finishFrame
  rw [hcur, validHdr_ok hok, het, need_some, ifHeld, if_pos hheld]

theorem lenwarnOf_of_payloadLen {c n : Nat} {v : Half} (hn : s.hdr.payloadLen = some n) :
    lenwarnOf v c s = .next ((s.setHdr { s.hdr with wLenMismatch := some (lenMismatch v n) }).reach .frame c 9) := by
  rw [lenwarnOf, hn, need_some]

theorem decoderReturn_frame_reached {c : Nat} (hat : s.FrameAt 9 c) :
    decoderReturn .frame s = .next { s with frameStatus := .ok, arp := ArpRecord.invalid, cursor := none } :=
  hat.inDecoder_eq _

theorem finishFrame_running {c : Nat} (hat : s.FrameAt 8 c) (v : Half) :
    finishFrame v s = andThen (lenwarnOf v c s) (decoderReturn .frame) := by
  unfold finishFrame
  rw [hat.2]
  exact hat.inDecoder_eq _

theorem runWindow_etype_after_return {et : Half} (hcur : s.cursor = none) (hok : s.frameStatus = .ok)
    (hheld : s.bufferHeld = true) (het : s.hdr.etherType = some et) : runWindow .etype s = afterFrame s := by
  have hwindow : ∀ k, windowBytes .etype s k = k (halfBytes et) := by
    intro k
    unfold windowBytes
    rw [hcur, validHdr_ok hok, het, need_some]
  rw [runWindow_eq, hwindow, runSelected_etype, finishFrame_after_return hcur hok hheld het, andThen, afterFrame, frameFailed, hok,
    validHdr_ok hok, het, need_some]
  rfl

/-- In a run the code point does what FD.LENWARN, the return and the demultiplexing do. -/
theorem runWindow_etype_running (hs : frameFailed s = false) (hcur : s.cursor ≠ none) :
    runWindow .etype s = andThen (runSteps frameFailed frameEnd s) afterFrame := by
  have hwindow : ∀ k, windowBytes .etype s k =
      inDecoder .frame 8 s fun _ => need s.hdr.etherType .etherType fun v => k (halfBytes v) := by
    intro k
    unfold windowBytes
    obtain ⟨c, hc⟩ := Option.ne_none_iff_exists'.1 hcur
    rw [hc]
  rw [runWindow_eq, hwindow, frameEnd, runSteps_cons, execFdLenwarn, andThen_inDecoder, andThen_inDecoder]
  refine inDecoder_congr fun c hcur hheld => ?_
  rw [andThen_need, andThen_need]
  refine need_congr fun v hv => ?_
  rw [runSelected_etype, finishFrame_running ⟨hheld, hcur⟩]
  cases hn : s.hdr.payloadLen with
  | none => rw [lenwarnOf, hn]; rfl
  | some n =>
    have hreturn := decoderReturn_frame_reached (c := c)
      (s := (s.setHdr { s.hdr with wLenMismatch := some (lenMismatch v n) }).reach .frame c 9) ⟨hheld, rfl⟩
    rw [lenwarnOf_of_payloadLen hn, andThen, andThen, hreturn]
    change _ = andThen (ite (frameFailed s = true) _ _) afterFrame
    rw [hs, if_neg Bool.false_ne_true, runSteps_singleton, hreturn, andThen, andThen]
    change _ = need s.hdr.etherType _ _
    rw [hv, need_some]

end

/-! ## DEMUX step by step and by code points -/

theorem stepsFor_add (m n : Nat) (s : State) : stepsFor (m + n) s = andThen (stepsFor m s) (stepsFor n) := by
  induction m generalizing s with
  | zero => rw [Nat.zero_add]; rfl
  | succ m ih =>
    rw [Nat.succ_add, stepsFor, stepsFor, andThen_assoc]
    congr 1
    funext t
    exact ih t

theorem stepsFor_one (s : State) : stepsFor 1 s = step s := by
  rw [stepsFor]
  cases step s <;> rfl

/-- A run that has come to a state, and one more request. -/
theorem stepsFor_then {n : Nat} {x u : State} (h : stepsFor n x = .next u) : stepsFor (n + 1) x = step u := by
  rw [stepsFor_add, h, andThen, stepsFor_one]

/-- A part of FrameDecoder's run and then the request of the ETYPE window: that window's code point carries out what remains
of DEMUX after the part, and a failure drops the request. -/
theorem stepsFor_select_etype {n : Nat} {x : State} {o : Out} {rest : List Op} {remains : State → Out}
    (h : stepsFor n x = withPending .frame (.select .etype :: rest) o)
    (hfailed : ∀ t, frameFailed t = true → remains t = .next t)
    (hgoes : ∀ t, o = .next t → frameFailed t = false → runWindow .etype (t.setPending rest) = remains (t.setPending rest)) :
    ∃ m, stepsFor m x = andThen (withPending .frame rest o) remains := by
  cases o with
  | fault r | refused r => exact ⟨n, h⟩
  | next t =>
    cases ht : frameFailed t with
    | true =>
      refine ⟨n, h.trans ?_⟩
      have hdrop : (Op.select .etype :: rest).dropWhile (Op.partOf .frame) = rest.dropWhile (Op.partOf .frame) := rfl
      rw [withPending_fails (d := .frame) ht, withPending_fails (d := .frame) ht, hdrop, andThen]
      exact (hfailed (t.setPending (rest.dropWhile (Op.partOf .frame))) ht).symm
    | false =>
      rw [← withPending_goesOn (d := .frame) (t := t) ht] at h
      refine ⟨n + 1, ?_⟩
      rw [stepsFor_then h, ← withPending_goesOn (d := .frame) (t := t) ht, andThen, ← hgoes t rfl ht]
      rfl

theorem frameSteps_pend : ∀ f ∈ frameSteps, Pends .frame f := by
  simp only [frameSteps, List.forall_mem_cons]
  exact ⟨execFdLenchk_pends, execFdMacdst_pends, execFdMacsrc_pends, execFdVlanpeek_pends, execFdVlanchk_pends,
    execFdVlantag_pends, execFdEtype_pends, execFdPayload_pends, execFdLenwarn_pends, List.forall_mem_nil _⟩

theorem execFrameDecode_pends (s : State) (q : List Op) :
    execFrameDecode (s.setPending q) = withPending .frame q (execFrameDecode s) := by
  refine runSteps_cons_pends (d := .frame) (startFrame_pends s q) fun t ht => runSteps_pends (d := .frame) ?_ t q ht
  exact List.forall_mem_append.2 ⟨frameSteps_pend, List.forall_mem_singleton.2 decoderReturn_frame_pends⟩

/-- FrameDecoder from its start to FD.PAYLOAD. -/
def toPayload : List (State → Out) := toEth12 ++ headerSteps

theorem toPayload_pends (s : State) (q : List Op) :
    runSteps frameFailed toPayload (s.setPending q) = withPending .frame q (runSteps frameFailed toPayload s) := by
  refine runSteps_cons_pends (d := .frame) (startFrame_pends s q) fun t ht => runSteps_pends (d := .frame) ?_ t q ht
  exact fun f hf => frameSteps_pend f (List.mem_append_left [execFdLenwarn] hf)

/-- FD.PAYLOAD, unless FrameDecoder has failed, leaves it running. -/
theorem cursor_after_toPayload {s t : State} (h : runSteps frameFailed toPayload s = .next t) (ht : frameFailed t = false) :
    t.cursor ≠ none := by
  obtain ⟨u, hu⟩ := runSteps_concat_next (f := startFrame) (g := execFdPayload)
    (l := [execFdLenchk, execFdMacdst, execFdMacsrc, execFdVlanpeek, execFdVlanchk, execFdVlantag, execFdEtype]) h ht
  obtain ⟨-, hmove⟩ := execFdPayload_moves u t hu
  cases hmove with
  | goesOn => exact Option.some_ne_none _
  | fails => cases ht

theorem afterFrame_failed {t : State} (h : frameFailed t = true) : afterFrame t = .next t := if_pos h

theorem demux_stepwise (s : State) (rest : List Op) :
    ∃ n, stepsFor n (s.setPending (demuxStepwise ++ rest)) = execDemux (s.setPending rest) := by
  obtain ⟨n, hn⟩ := stepsFor_frameStepwise s (.select .etype :: rest)
  rw [execFrameDecode_pends] at hn
  rw [execDemux_parts, execFrameDecode_pends]
  refine stepsFor_select_etype (n := n) hn (fun _ => afterFrame_failed) fun t ht hgoes => ?_
  rw [execFrameDecode_eq] at ht
  split at ht
  · cases ht
  · cases ht
    cases hshort : s.raw.short with
    | true =>
      rw [hshort] at hgoes
      cases hgoes
    | false => exact runWindow_etype_after_return (s := (frameSuccess s).setPending rest) rfl rfl rfl rfl

theorem demux_byCodePoints (s : State) (rest : List Op) :
    ∃ n, stepsFor n (s.setPending (demuxByCodePoints ++ rest)) = execDemux (s.setPending rest) := by
  obtain ⟨n, hn⟩ := stepsFor_run (op := .start .frame) (f := startFrame) (rest := .select .etype :: rest) (fun _ => rfl)
    (startFrame_pends s) (eth12_carries .nil)
  have hpart := runSteps_codePoint [] (s.setPending (.select .etype :: rest))
  rw [List.append_nil] at hpart
  have hrun := hn.trans (hpart.trans (toPayload_pends s _))
  rw [execDemux_parts, execFrameDecode_parts, ← toPayload, toPayload, toEth12, List.cons_append, runSteps_cons_append,
    andThen_assoc]
  change ∃ n, _ = andThen (runSteps frameFailed toPayload (s.setPending rest)) _
  rw [toPayload_pends]
  refine stepsFor_select_etype hrun (fun t ht => ?_) fun t ht hgoes => ?_
  · rw [if_pos ht]
    exact afterFrame_failed ht
  · have hcur : t.cursor ≠ none := cursor_after_toPayload ht hgoes
    rw [runWindow_etype_running (s := t.setPending rest) hgoes hcur]
    change _ = andThen (ite (frameFailed t = true) _ _) afterFrame
    rw [hgoes, if_neg Bool.false_ne_true]

/-- Settles O12: FrameDecoder's part ends as in FRAME_DECODE, at its return or before its last two steps, and the ETYPE
window does the rest. -/
theorem demuxEqualsItsStepsAndItsEtherTypeCodePoint : Obligations.DemuxEqualsItsStepsAndItsEtherTypeCodePoint :=
  fun s rest => ⟨demux_stepwise s rest, demux_byCodePoints s rest⟩

end Sys2Proof.Machine
end

section
/-! Whole transactions: DEMUX, FRAME_DECODE and ARP_DECODE complete, with the results that the bytes decide (40 R100 to
R107, 60 R186 to R197), all from their closed forms. -/

namespace Sys2Proof.Machine

/-! ## The four ways DEMUX ends -/

/-- The length of an accepted frame's payload (41 R118). -/
def Frame.payloadLength (f : Frame) : Nat := f.len - headerLength f.tagged

/-- The state after a DEMUX whose ArpDecoder fails (42 R132, 40 R106). -/
def demuxArpFailure (s : State) : State :=
  { frameSuccess s with arpStatus := .tooShort, pending := s.pending.dropWhile (Op.partOf .arp) }

/-- The state after a DEMUX of an ARP packet. -/
def demuxArpSuccess (s : State) : State :=
  { frameSuccess s with arpStatus := .ok, arp := s.raw.record (headerLength s.raw.tagged) s.raw.payloadLength }

/-- The four results of DEMUX on a frame within the bound. -/
inductive DemuxResult (s : State) : State → Prop where
  | frameFailed (hshort : s.raw.short = true) : DemuxResult s (frameFailure s)
  | payloadOpaque (hshort : s.raw.short = false) (het : s.raw.etype ≠ Const.etypeArp) : DemuxResult s (frameSuccess s)
  | arpFailed (hshort : s.raw.short = false) (het : s.raw.etype = Const.etypeArp) (hn : s.raw.payloadLength < 8) :
      DemuxResult s (demuxArpFailure s)
  | arpDecoded (hshort : s.raw.short = false) (het : s.raw.etype = Const.etypeArp) (hn : 8 ≤ s.raw.payloadLength) :
      DemuxResult s (demuxArpSuccess s)

section
variable {s t : State}

/-- DEMUX completes on every frame within the bound, in one of the four ways. -/
theorem execDemux_result (hl : s.tooLong = false) : ∃ t, execDemux s = .next t ∧ DemuxResult s t := by
  rw [execDemux_eq, hl, if_neg Bool.false_ne_true]
  cases hshort : s.raw.short with
  | true => exact ⟨_, rfl, .frameFailed hshort⟩
  | false =>
    rw [if_neg Bool.false_ne_true]
    split
    case isFalse hsel => exact ⟨_, rfl, .payloadOpaque hshort (mt (selectsArp_iff _).2 hsel)⟩
    case isTrue hsel =>
      have het := (selectsArp_iff _).1 hsel
      split
      case isTrue hn => exact ⟨_, rfl, .arpFailed hshort het hn⟩
      case isFalse hn => exact ⟨_, rfl, .arpDecoded hshort het (Nat.le_of_not_lt hn)⟩

theorem execDemux_refused (hl : s.tooLong = true) : execDemux s = .refused .frameTooLong := by
  rw [execDemux_eq, if_pos hl]

theorem execFrameDecode_refused (hl : s.tooLong = true) : execFrameDecode s = .refused .frameTooLong := by
  rw [execFrameDecode_eq, if_pos hl]

/-- Whatever DEMUX answers is one of the four results. -/
theorem execDemux_next (h : execDemux s = .next t) : s.tooLong = false ∧ DemuxResult s t := by
  cases hl : s.tooLong with
  | true =>
    rw [execDemux_refused hl] at h
    cases h
  | false =>
    obtain ⟨u, hu, hresult⟩ := execDemux_result hl
    rw [h] at hu
    cases hu
    exact ⟨rfl, hresult⟩

/-- Header and payload make up an accepted frame. -/
theorem headerLength_add_payloadLength {f : Frame} (h : f.short = false) : headerLength f.tagged + f.payloadLength = f.len :=
  Nat.add_sub_cancel' (headerLength_le_of_not_short h)

theorem lenMismatch_eq (v : Half) (n : Nat) : lenMismatch v n = decide (v.toNat ≤ 1500 ∧ n < v.toNat) := by
  rw [Bool.eq_iff_iff, lenMismatch_iff, decide_eq_true_iff]

theorem not_tooShortBytes {f : Frame} (h : f.short = false) : ¬ tooShortBytes f.bytes := by
  rw [← Frame.short_iff, h]
  exact Bool.false_ne_true

/-- What every result on an accepted frame says of the header. -/
theorem header_facts {f : Frame} (h : f.short = false) :
    f.header.complete = true ∧ HeaderMatches f f.header ∧ f.header.etherType = some f.etype ∧
      f.header.payloadLen = some f.payloadLength ∧
      f.header.wLenMismatch = some (decide (f.etype.toNat ≤ 1500 ∧ f.payloadLength < f.etype.toNat)) :=
  ⟨f.header_complete, f.header_matches h, rfl, rfl, congrArg some (lenMismatch_eq _ _)⟩

/-- The record of an accepted frame's payload, which is the end of the frame. -/
theorem record_of_payload {f : Frame} (h : f.short = false) (hn : 8 ≤ f.payloadLength) :
    RecordMatches (f.bytes.drop (f.len - f.payloadLength)) (f.record (headerLength f.tagged) f.payloadLength) := by
  have hoff : f.len - f.payloadLength = headerLength f.tagged := Nat.sub_sub_self (headerLength_le_of_not_short h)
  rw [hoff]
  exact f.record_matches _ _ hn (headerLength_add_payloadLength h)

end

/-! ## The completion statements -/

/-- Settles O20: the four results of DEMUX, each with what it says of the registers. -/
theorem demuxCompletesWithTheStatusPairOfTheFrame : Obligations.DemuxCompletesWithTheStatusPairOfTheFrame := by
  intro s hl
  obtain ⟨t, ht, hresult⟩ := execDemux_result hl
  refine ⟨t, ht, ?_⟩
  cases hresult with
  | frameFailed hshort =>
    exact ⟨rfl, rfl, rfl, rfl, fun _ => ⟨rfl, rfl, rfl, rfl⟩, fun h => absurd (s.raw.short_iff.1 hshort) h⟩
  | payloadOpaque hshort het =>
    obtain ⟨hc, hm, hetype, hlen, hflag⟩ := header_facts hshort
    exact ⟨rfl, rfl, rfl, rfl, fun h => absurd h (not_tooShortBytes hshort), fun _ => ⟨_, _, rfl, hc, hm, hetype, hlen, hflag,
      fun _ => ⟨rfl, rfl⟩, fun h => absurd h het, fun h => absurd h het⟩⟩
  | arpFailed hshort het hn =>
    obtain ⟨hc, hm, hetype, hlen, hflag⟩ := header_facts hshort
    exact ⟨rfl, rfl, rfl, rfl, fun h => absurd h (not_tooShortBytes hshort), fun _ => ⟨_, _, rfl, hc, hm, hetype, hlen, hflag,
      fun h => absurd het h, fun _ _ => ⟨rfl, rfl⟩, fun _ h8 => absurd hn (Nat.not_lt.2 h8)⟩⟩
  | arpDecoded hshort het hn =>
    obtain ⟨hc, hm, hetype, hlen, hflag⟩ := header_facts hshort
    exact ⟨rfl, rfl, rfl, rfl, fun h => absurd h (not_tooShortBytes hshort), fun _ => ⟨_, _, rfl, hc, hm, hetype, hlen, hflag,
      fun h => absurd het h, fun _ h8 => absurd h8 (Nat.not_lt.2 hn), fun _ _ => ⟨rfl, record_of_payload hshort hn⟩⟩⟩

theorem execFrameDecode_failed {s : State} (hl : s.tooLong = false) (hshort : s.raw.short = true) :
    execFrameDecode s = .next (frameFailure s) := by
  rw [execFrameDecode_eq, hl, hshort]
  rfl

theorem execFrameDecode_accepted {s : State} (hl : s.tooLong = false) (hshort : s.raw.short = false) :
    execFrameDecode s = .next (frameSuccess s) := by
  rw [execFrameDecode_eq, hl, hshort]
  rfl

/-- Settles O21: the two results of FRAME_DECODE. -/
theorem frameDecodeCompletesWithTheHeaderOfTheFrame : Obligations.FrameDecodeCompletesWithTheHeaderOfTheFrame := by
  intro s hl
  cases hshort : s.raw.short with
  | true =>
    exact ⟨_, execFrameDecode_failed hl hshort, rfl, rfl, rfl, rfl, rfl, rfl, fun _ => ⟨rfl, rfl⟩,
      fun h => absurd (s.raw.short_iff.1 hshort) h⟩
  | false =>
    obtain ⟨hc, hm, -, -, hflag⟩ := header_facts hshort
    refine ⟨_, execFrameDecode_accepted hl hshort, rfl, rfl, rfl, rfl, rfl, rfl,
      fun h => absurd h (not_tooShortBytes hshort), fun _ => ⟨rfl, hc, hm, rfl, ?_⟩⟩
    rintro _ _ ⟨⟩ ⟨⟩
    exact hflag

/-- Settles O22: the closed form of ArpDecoder alone. -/
theorem arpDecodeAloneCompletesWithTheRecordOfTheBuffer : Obligations.ArpDecodeAloneCompletesWithTheRecordOfTheBuffer := by
  intro s
  refine ⟨_, arpRun_whole_eq s, ?_⟩
  split
  case isTrue h8 =>
    exact ⟨rfl, rfl, rfl, rfl, rfl, rfl, fun _ => ⟨rfl, rfl⟩, fun h => absurd h8 (Nat.not_lt.2 h)⟩
  case isFalse h8 =>
    exact ⟨rfl, rfl, rfl, rfl, rfl, rfl, fun h => absurd h h8,
      fun h => ⟨rfl, rfl, s.raw.record_matches 0 s.raw.len h (Nat.zero_add _)⟩⟩

/-- Settles O23: the closed form of ArpDecoder on the payload view. -/
theorem arpDecodeOfAPayloadCompletesAndKeepsTheHeader : Obligations.ArpDecodeOfAPayloadCompletesAndKeepsTheHeader := by
  intro s o n hok hheld ho hn hin
  refine ⟨_, arpRun_payload_eq hok hheld ho hn hin.le, ?_⟩
  split
  case isTrue h8 =>
    exact ⟨rfl, rfl, rfl, hok, rfl, rfl, fun _ => ⟨rfl, rfl⟩, fun h => absurd h8 (Nat.not_lt.2 h)⟩
  case isFalse h8 =>
    exact ⟨rfl, rfl, rfl, hok, rfl, rfl, fun h => absurd h h8, fun h => ⟨rfl, rfl, s.raw.record_matches o n h hin⟩⟩

/-- Settles O26: such a frame is too long, and no transaction starts. -/
theorem framesOverTheBoundAreRefused : Obligations.FramesOverTheBoundAreRefused := by
  intro s n hmax hlen
  have hl : s.tooLong = true := by
    rw [State.tooLong, hmax]
    exact decide_eq_true hlen
  exact ⟨execDemux_refused hl, execFrameDecode_refused hl⟩

/-! ## Bytes that are not read -/

section
variable {f g : Frame}

theorem tagged_congr (h : ∀ a, a < 14 → f.byte a = g.byte a) : f.tagged = g.tagged := by
  rw [Frame.tagged, Frame.tagged, h 12 (by decide), h 13 (by decide)]

theorem macAt_congr {o : Nat} (h : ∀ a, a < o + 6 → f.byte a = g.byte a) : f.macAt o = g.macAt o := by
  rw [Frame.macAt, Frame.macAt, h o (by omega), h (o + 1) (by omega), h (o + 2) (by omega), h (o + 3) (by omega),
    h (o + 4) (by omega), h (o + 5) (by omega)]

/-- 41 R121: FrameDecoder reads bytes 0 to 13, and 14 to 17 only in a tagged frame. -/
theorem header_congr (hlen : f.len = g.len) (h14 : ∀ a, a < 14 → f.byte a = g.byte a)
    (h18 : f.tagged = true → ∀ a, a < 18 → f.byte a = g.byte a) : f.header = g.header := by
  have htag : g.tagged = f.tagged := (tagged_congr h14).symm
  have hdst : f.macAt 0 = g.macAt 0 := macAt_congr fun a ha => h14 a (by omega)
  have hsrc : f.macAt 6 = g.macAt 6 := macAt_congr fun a ha => h14 a (by omega)
  have hvlan : f.tagged = true → be32 (f.byte 12) (f.byte 13) (f.byte 14) (f.byte 15) =
      be32 (g.byte 12) (g.byte 13) (g.byte 14) (g.byte 15) := by
    intro ht
    rw [h18 ht 12 (by decide), h18 ht 13 (by decide), h18 ht 14 (by decide), h18 ht 15 (by decide)]
  have hetype : f.etype = g.etype := by
    rw [Frame.etype, Frame.etype, htag]
    split
    case isTrue ht => rw [h18 ht 16 (by decide), h18 ht 17 (by decide)]
    case isFalse => rw [h14 12 (by decide), h14 13 (by decide)]
  rw [Frame.header, Frame.header, htag, hdst, hsrc, hetype, hlen]
  split
  case isTrue ht => rw [hvlan ht]
  case isFalse => rfl

end

/-- Settles O25: unless the frame carries ARP, DEMUX answers the failure or the header of the bytes it may read. -/
theorem payloadBytesOfAFrameThatIsNotArpAreNotRead : Obligations.PayloadBytesOfAFrameThatIsNotArpAreNotRead := by
  intro s t hmax hlen h14 h18 s' hs hnot
  obtain ⟨hl, hresult⟩ := execDemux_next hs
  have hl' : t.tooLong = false := by
    rw [← hl, State.tooLong, State.tooLong, hmax, hlen]
  have htag : s.raw.tagged = t.raw.tagged := tagged_congr h14
  have hshort : s.raw.short = t.raw.short := by
    rw [Frame.short, Frame.short, htag, hlen]
  obtain ⟨t', ht, hresult'⟩ := execDemux_result hl'
  refine ⟨t', ht, ?_⟩
  cases hresult with
  | frameFailed hfailed =>
    cases hresult' with
    | frameFailed => exact frameFailure_sameResult s t
    | payloadOpaque h | arpFailed h | arpDecoded h =>
      rw [← hshort, hfailed] at h
      cases h
  | arpFailed _ het | arpDecoded _ het => exact absurd (congrArg some het) hnot
  | payloadOpaque haccepted het =>
    have h15 : 14 ≤ s.raw.len := by
      by_contra hlt
      rw [Frame.short, decide_eq_true (show s.raw.len < 15 by omega)] at haccepted
      cases haccepted
    have hheader : s.raw.header = t.raw.header := header_congr hlen h14 fun ht => h18 ((s.raw.tagged_iff h15).1 ht)
    have hetype : s.raw.etype = t.raw.etype := Option.some.inj (congrArg Header.etherType hheader)
    cases hresult' with
    | frameFailed h =>
      rw [← hshort, haccepted] at h
      cases h
    | payloadOpaque => exact ⟨rfl, rfl, hheader, rfl, rfl, rfl, rfl⟩
    | arpFailed _ het' | arpDecoded _ het' => exact absurd (hetype.trans het') het

/-! ## Anomalies and lengths after DEMUX -/

theorem lenMismatch_etypeArp (n : Nat) : lenMismatch Const.etypeArp n = false := rfl

/-- Past the end of the frame there is nothing to judge. -/
theorem anyNonZero_of_empty {f : Frame} {a n : Nat} (h : n = 0) : anyNonZero (f.slice a n) = false := by
  rw [h, List.eq_nil_of_length_eq_zero (l := f.slice a 0) (by rw [Frame.slice_length, Nat.zero_min])]
  rfl

/-- A truncated packet has no trailing bytes (60 R197 (c)). -/
theorem record_trunc_no_trailing (f : Frame) (o n : Nat) (h : (f.record o n).wArpTrunc = some true) :
    (f.record o n).wArpTrailing = some false := by
  have hlt := of_decide_eq_true (Option.some.inj h)
  exact congrArg some (anyNonZero_of_empty (Nat.sub_eq_zero_of_le (Nat.le_of_lt hlt)))

/-- Settles O57: the length flag is off for 0x0806, and the trailing view of a truncated packet is empty. -/
theorem anomalyCombinationsThatCannotOccur : Obligations.AnomalyCombinationsThatCannotOccur := by
  intro s t h
  obtain ⟨-, hresult⟩ := execDemux_next h
  have hflag : s.raw.etype = Const.etypeArp → s.raw.header.wLenMismatch = some true → False := by
    intro het hflag
    rw [Frame.header, het, lenMismatch_etypeArp] at hflag
    cases hflag
  cases hresult with
  | frameFailed => exact ⟨nofun, nofun⟩
  | payloadOpaque => exact ⟨fun _ => rfl, nofun⟩
  | arpFailed _ het => exact ⟨fun hf => (hflag het hf).elim, nofun⟩
  | arpDecoded _ het => exact ⟨fun hf => (hflag het hf).elim, record_trunc_no_trailing s.raw _ _⟩

/-- Settles O58: the slices of the record are clamped to the payload, which a packet that is not truncated fills. -/
theorem addressFieldsStayWithinTheirDeclaredLengths : Obligations.AddressFieldsStayWithinTheirDeclaredLengths := by
  intro s t h hok
  obtain ⟨-, hresult⟩ := execDemux_next h
  cases hresult with
  | frameFailed | payloadOpaque | arpFailed => cases hok
  | arpDecoded hshort _ _ =>
    have hlen := headerLength_add_payloadLength hshort
    have hh := (s.raw.byte (headerLength s.raw.tagged + 4)).isLt
    have hp := (s.raw.byte (headerLength s.raw.tagged + 5)).isLt
    refine ⟨_, _, _, _, _, _, _, rfl, rfl, rfl, rfl, rfl, rfl, rfl, congrArg some (by omega), by omega, ?_, ?_, ?_, ?_, by omega,
      by omega, fun htrunc => ?_⟩
    · simp
    · simp
    · simp
    · simp
    · have hle := of_decide_eq_false htrunc
      simp only [Frame.slice_length]
      omega

end Sys2Proof.Machine
end

section
/-! The wire formats (30 R76 to R79): on the bytes of a frame and of an ARP packet the decoders give back every field. -/

namespace Sys2Proof.Machine

/-! ## The bytes of a frame -/

theorem encodeFrame_untagged {f : FrameFields} (h : f.tag = none) :
    encodeFrame f = f.macDest.toList ++ f.macSrc.toList ++ halfBytes f.etherType ++ f.payload := by
  rw [encodeFrame, h, tagBytes, List.append_nil]

theorem encodeFrame_tagged {f : FrameFields} {tci : Half} (h : f.tag = some tci) :
    encodeFrame f = f.macDest.toList ++ f.macSrc.toList ++ halfBytes Const.vlanMarker ++ halfBytes tci ++
      halfBytes f.etherType ++ f.payload := by
  rw [encodeFrame, h, tagBytes, List.append_assoc _ (halfBytes Const.vlanMarker)]

/-- The tag is the marker and the tag control information, as one number (30 R77, R82). -/
theorem be32_tag (tci : Half) : be32 (hiByte Const.vlanMarker) (loByte Const.vlanMarker) (hiByte tci) (loByte tci) =
    BitVec.ofNat 32 (0x8100 * 65536 + tci.toNat) := by
  have htci := tci.isLt
  apply BitVec.eq_of_toNat_eq
  rw [be32_toNat, hiByte_toNat tci, loByte_toNat tci, BitVec.toNat_ofNat]
  simp only [show (hiByte Const.vlanMarker).toNat = 0x81 from rfl, show (loByte Const.vlanMarker).toNat = 0 from rfl]
  omega

/-- The header that FrameDecoder leaves of the bytes of a frame. -/
def encodedHeader (f : FrameFields) : Header :=
  { macDest := some f.macDest, macSrc := some f.macSrc, vlanPresent := some f.tag.isSome,
    vlanTag := f.tag.map fun tci => BitVec.ofNat 32 (0x8100 * 65536 + tci.toNat), etherType := some f.etherType,
    hdrLen := some (if f.tag.isSome then 18 else 14), payloadOff := some (if f.tag.isSome then 18 else 14),
    payloadLen := some f.payload.length,
    wLenMismatch := some (decide (f.etherType.toNat ≤ 1500 ∧ f.payload.length < f.etherType.toNat)) }

/-- What the frame's bytes give: an accepted frame with these fields, whose payload follows the header. -/
structure EncodedFrame (f : FrameFields) (raw : Frame) : Prop where
  accepted : raw.short = false
  header   : raw.header = encodedHeader f
  bytes    : ∃ pre, encodeFrame f = pre ++ f.payload ∧ pre.length = headerLength raw.tagged
  length   : raw.payloadLength = f.payload.length

theorem encodedFrame_untagged {f : FrameFields} (hwf : f.wf = true) (htag : f.tag = none) :
    EncodedFrame f (Frame.ofBytes (encodeFrame f)) := by
  simp only [FrameFields.wf, htag, Bool.and_eq_true, bne_iff_ne, decide_eq_true_eq] at hwf
  obtain ⟨hmarker, hpayload⟩ := hwf
  rw [encodeFrame_untagged htag]
  set raw := Frame.ofBytes (f.macDest.toList ++ f.macSrc.toList ++ halfBytes f.etherType ++ f.payload) with hraw
  have hlen : raw.len = 14 + f.payload.length := by
    simp [hraw, Mac.toList, halfBytes]
    omega
  have hbits : be16 (raw.byte 12) (raw.byte 13) = f.etherType := by
    simp [hraw, Frame.byte_ofBytes, Mac.toList, halfBytes]
  have htagged : raw.tagged = false := by
    rw [Frame.tagged, hbits]
    exact beq_false_of_ne hmarker
  have hdst : raw.macAt 0 = f.macDest := by simp [hraw, Frame.macAt, Frame.byte_ofBytes, Mac.toList, halfBytes]
  have hsrc : raw.macAt 6 = f.macSrc := by simp [hraw, Frame.macAt, Frame.byte_ofBytes, Mac.toList, halfBytes]
  have hetype : raw.etype = f.etherType := by rw [Frame.etype, htagged, if_neg Bool.false_ne_true, hbits]
  have hlength : raw.payloadLength = f.payload.length := by
    rw [Frame.payloadLength, htagged, hlen]
    exact Nat.add_sub_cancel_left _ _
  refine ⟨?_, ?_, ⟨_, encodeFrame_untagged htag, by rw [htagged]; rfl⟩, hlength⟩
  · simp [Frame.short, htagged, hlen]
    omega
  · rw [Frame.header, encodedHeader, ← Frame.payloadLength, hlength, hdst, hsrc, hetype, htagged, htag, lenMismatch_eq]
    rfl

theorem encodedFrame_tagged {f : FrameFields} {tci : Half} (htag : f.tag = some tci) :
    EncodedFrame f (Frame.ofBytes (encodeFrame f)) := by
  rw [encodeFrame_tagged htag]
  set raw := Frame.ofBytes (f.macDest.toList ++ f.macSrc.toList ++ halfBytes Const.vlanMarker ++ halfBytes tci ++
      halfBytes f.etherType ++ f.payload) with hraw
  have hlen : raw.len = 18 + f.payload.length := by
    simp [hraw, Mac.toList, halfBytes]
    omega
  have hbits : be16 (raw.byte 12) (raw.byte 13) = Const.vlanMarker := by
    simp [hraw, Frame.byte_ofBytes, Mac.toList, halfBytes]
  have htagged : raw.tagged = true := by
    rw [Frame.tagged, hbits]
    exact beq_self_eq_true _
  have hdst : raw.macAt 0 = f.macDest := by simp [hraw, Frame.macAt, Frame.byte_ofBytes, Mac.toList, halfBytes]
  have hsrc : raw.macAt 6 = f.macSrc := by simp [hraw, Frame.macAt, Frame.byte_ofBytes, Mac.toList, halfBytes]
  have hvlan : be32 (raw.byte 12) (raw.byte 13) (raw.byte 14) (raw.byte 15) =
      BitVec.ofNat 32 (0x8100 * 65536 + tci.toNat) := by
    rw [← be32_tag]
    simp [hraw, Frame.byte_ofBytes, Mac.toList, halfBytes]
  have hetype : raw.etype = f.etherType := by
    rw [Frame.etype, htagged, if_pos rfl]
    simp [hraw, Frame.byte_ofBytes, Mac.toList, halfBytes]
  have hlength : raw.payloadLength = f.payload.length := by
    rw [Frame.payloadLength, htagged, hlen]
    exact Nat.add_sub_cancel_left _ _
  refine ⟨?_, ?_, ⟨_, encodeFrame_tagged htag, by rw [htagged]; rfl⟩, hlength⟩
  · simp [Frame.short, htagged, hlen]
    omega
  · rw [Frame.header, encodedHeader, ← Frame.payloadLength, hlength, hdst, hsrc, hetype, hvlan, htagged, htag, lenMismatch_eq]
    rfl

theorem encodedFrame {f : FrameFields} (hwf : f.wf = true) : EncodedFrame f (Frame.ofBytes (encodeFrame f)) := by
  cases htag : f.tag with
  | none => exact encodedFrame_untagged hwf htag
  | some tci => exact encodedFrame_tagged htag

/-- Settles O4: the header of the frame's bytes, and the payload as the rest of them. -/
theorem frameDecodeRecoversEveryEncodedField : Obligations.FrameDecodeRecoversEveryEncodedField := by
  intro s f hwf hraw hl
  have henc := encodedFrame hwf
  rw [← hraw] at henc
  obtain ⟨haccepted, hheader, ⟨pre, hbytes, hpre⟩, hlength⟩ := henc
  refine ⟨frameSuccess s, execFrameDecode_accepted hl haccepted, rfl, ?_, hheader⟩
  change some (Value.bytes (s.raw.slice (headerLength s.raw.tagged) s.raw.payloadLength)) = _
  rw [hlength, ← hpre, hraw, Frame.slice_ofBytes, hbytes, List.drop_left, List.take_length]

/-! ## The bytes of an ARP packet -/

/-- The record that ArpDecoder leaves of the bytes of a packet. -/
def encodedRecord (a : ArpFields) : ArpRecord :=
  let h := a.senderHwAddr.length
  let p := a.senderProtoAddr.length
  { hardwareType := some a.hardwareType, protocolType := some a.protocolType, hardwareLen := some (BitVec.ofNat 8 h),
    protocolLen := some (BitVec.ofNat 8 p), operation := some a.operation, senderHwAddr := some a.senderHwAddr,
    senderProtoAddr := some a.senderProtoAddr, targetHwAddr := some a.targetHwAddr, targetProtoAddr := some a.targetProtoAddr,
    arpConsumed := some (8 + 2 * h + 2 * p), trailOff := some (8 + 2 * h + 2 * p), trailLen := some a.trailing.length,
    wArpUnderlen := some (decide (8 + 2 * h + 2 * p + a.trailing.length < 28)),
    wArpTrailing := some (decide (∃ b ∈ a.trailing, b ≠ 0#8)), wArpTrunc := some false }

/-- What follows the fixed header of a packet. -/
def arpTail (a : ArpFields) : List Byte :=
  a.senderHwAddr ++ (a.senderProtoAddr ++ (a.targetHwAddr ++ (a.targetProtoAddr ++ a.trailing)))

theorem encodeArp_eq (a : ArpFields) :
    encodeArp a = [hiByte a.hardwareType, loByte a.hardwareType, hiByte a.protocolType, loByte a.protocolType,
      BitVec.ofNat 8 a.senderHwAddr.length, BitVec.ofNat 8 a.senderProtoAddr.length, hiByte a.operation, loByte a.operation] ++
        arpTail a := by
  simp [encodeArp, halfBytes, arpTail]

/-- The lengths that a well-formed packet's two length bytes declare (42 R140). -/
theorem arpFields_wf_iff (a : ArpFields) : a.wf = true ↔
    a.targetHwAddr.length = a.senderHwAddr.length ∧ a.targetProtoAddr.length = a.senderProtoAddr.length ∧
      a.senderHwAddr.length < 256 ∧ a.senderProtoAddr.length < 256 := by
  simp [ArpFields.wf, and_assoc]

section
variable {pre : List Byte} {a : ArpFields}

theorem byte_after (pre bytes : List Byte) (i : Nat) :
    (Frame.ofBytes (pre ++ bytes)).byte (pre.length + i) = bytes.getD i 0#8 := by
  rw [Frame.byte_ofBytes, List.getD_append_right _ _ _ _ (Nat.le_add_right _ _), Nat.add_sub_cancel_left]

theorem slice_after (pre bytes : List Byte) (i n : Nat) :
    (Frame.ofBytes (pre ++ bytes)).slice (pre.length + i) n = (bytes.drop i).take n := by
  rw [Frame.slice_ofBytes, List.drop_length_add_append]

/-- Slices of the packet after its fixed header. -/
theorem slice_arpTail (pre : List Byte) (a : ArpFields) (i n : Nat) :
    (Frame.ofBytes (pre ++ encodeArp a)).slice (pre.length + (8 + i)) n = ((arpTail a).drop i).take n := by
  rw [slice_after, encodeArp_eq, ← List.drop_drop]
  rfl

theorem encodeArp_length (hwf : a.wf = true) : (encodeArp a).length =
    8 + 2 * a.senderHwAddr.length + 2 * a.senderProtoAddr.length + a.trailing.length := by
  obtain ⟨htha, htpa, -, -⟩ := (arpFields_wf_iff a).1 hwf
  rw [encodeArp_eq, arpTail]
  simp only [List.length_append, List.length_cons, List.length_nil, htha, htpa]
  omega

/-- The four addresses and what trails them, at their cumulative offsets (42 R138 to R143). -/
theorem slices_of_arpTail (hwf : a.wf = true) {h p : Nat} (hh : a.senderHwAddr.length = h) (hp : a.senderProtoAddr.length = p) :
    ((arpTail a).drop 0).take h = a.senderHwAddr ∧ ((arpTail a).drop h).take p = a.senderProtoAddr ∧
      ((arpTail a).drop (h + p)).take h = a.targetHwAddr ∧ ((arpTail a).drop (h + p + h)).take p = a.targetProtoAddr ∧
      (arpTail a).drop (h + p + h + p) = a.trailing := by
  obtain ⟨htha, htpa, -, -⟩ := (arpFields_wf_iff a).1 hwf
  have h1 : (arpTail a).drop h = a.senderProtoAddr ++ (a.targetHwAddr ++ (a.targetProtoAddr ++ a.trailing)) :=
    List.drop_left' hh
  have h2 : (arpTail a).drop (h + p) = a.targetHwAddr ++ (a.targetProtoAddr ++ a.trailing) := by
    rw [← List.drop_drop, h1, List.drop_left' hp]
  have h3 : (arpTail a).drop (h + p + h) = a.targetProtoAddr ++ a.trailing := by
    rw [← List.drop_drop, h2, List.drop_left' (htha.trans hh)]
  have h4 : (arpTail a).drop (h + p + h + p) = a.trailing := by
    rw [← List.drop_drop, h3, List.drop_left' (htpa.trans hp)]
  refine ⟨List.take_left' hh, ?_, ?_, ?_, h4⟩
  · rw [h1, List.take_left' hp]
  · rw [h2, List.take_left' (htha.trans hh)]
  · rw [h3, List.take_left' (htpa.trans hp)]

theorem anyNonZero_eq (bytes : List Byte) : anyNonZero bytes = decide (∃ b ∈ bytes, b ≠ 0#8) := by
  rw [Bool.eq_iff_iff, anyNonZero, List.any_eq_true, decide_eq_true_iff]
  simp only [bne_iff_ne]

/-- The eight bytes of the fixed header, wherever the packet begins (42 R133 to R137). -/
theorem fixedHeader_encodeArp (pre : List Byte) (a : ArpFields) {f : Frame} (hf : f = Frame.ofBytes (pre ++ encodeArp a)) :
    be16 (f.byte pre.length) (f.byte (pre.length + 1)) = a.hardwareType ∧
      be16 (f.byte (pre.length + 2)) (f.byte (pre.length + 3)) = a.protocolType ∧
      f.byte (pre.length + 4) = BitVec.ofNat 8 a.senderHwAddr.length ∧
      f.byte (pre.length + 5) = BitVec.ofNat 8 a.senderProtoAddr.length ∧
      be16 (f.byte (pre.length + 6)) (f.byte (pre.length + 7)) = a.operation := by
  have hbyte : ∀ i, f.byte (pre.length + i) = (encodeArp a).getD i 0#8 := hf ▸ byte_after pre (encodeArp a)
  rw [encodeArp_eq] at hbyte
  refine ⟨?_, ?_, hbyte 4, hbyte 5, ?_⟩
  · rw [hbyte 1, show f.byte pre.length = _ from hbyte 0]
    exact be16_hiByte_loByte _
  · rw [hbyte 2, hbyte 3]
    exact be16_hiByte_loByte _
  · rw [hbyte 6, hbyte 7]
    exact be16_hiByte_loByte _

/-- The slices that ArpDecoder takes of a packet that ends the buffer (42 R138 to R143). -/
theorem slices_encodeArp (pre : List Byte) (hwf : a.wf = true) {f : Frame} (hf : f = Frame.ofBytes (pre ++ encodeArp a))
    {h p : Nat} (hh : a.senderHwAddr.length = h) (hp : a.senderProtoAddr.length = p) :
    f.slice (pre.length + 8) h = a.senderHwAddr ∧ f.slice (pre.length + (8 + h)) p = a.senderProtoAddr ∧
      f.slice (pre.length + (8 + h + p)) h = a.targetHwAddr ∧ f.slice (pre.length + (8 + h + p + h)) p = a.targetProtoAddr ∧
      f.slice (pre.length + (8 + h + p + h + p)) ((encodeArp a).length - (8 + h + p + h + p)) = a.trailing := by
  obtain ⟨hsha, hspa, htha, htpa, htrail⟩ := slices_of_arpTail hwf hh hp
  have hslice : ∀ i n, f.slice (pre.length + (8 + i)) n = ((arpTail a).drop i).take n := hf ▸ slice_arpTail pre a
  have hlen : (encodeArp a).length - (8 + (h + p + h + p)) = a.trailing.length := by
    rw [encodeArp_length hwf, hh, hp]
    omega
  refine ⟨(hslice 0 h).trans hsha, (hslice h p).trans hspa, ?_, ?_, ?_⟩
  · rw [Nat.add_assoc 8, hslice, htha]
  · rw [Nat.add_assoc 8, Nat.add_assoc 8, hslice, htpa]
  · rw [Nat.add_assoc 8, Nat.add_assoc 8, Nat.add_assoc 8, hslice, htrail, hlen, List.take_length]

/-- The record of a packet that ends the buffer, wherever it begins. -/
theorem record_encodeArp (pre : List Byte) (hwf : a.wf = true) :
    (Frame.ofBytes (pre ++ encodeArp a)).record pre.length (encodeArp a).length = encodedRecord a := by
  obtain ⟨hhtype, hptype, hhlen, hplen, hoper⟩ := fixedHeader_encodeArp pre a rfl
  obtain ⟨-, -, hh256, hp256⟩ := (arpFields_wf_iff a).1 hwf
  obtain ⟨hsha, hspa, htha, htpa, htrail⟩ := slices_encodeArp pre hwf rfl rfl rfl
  have hconsumed : 8 + a.senderHwAddr.length + a.senderProtoAddr.length + a.senderHwAddr.length + a.senderProtoAddr.length =
      8 + 2 * a.senderHwAddr.length + 2 * a.senderProtoAddr.length := by omega
  have hlen := encodeArp_length hwf
  have hle : ¬ (encodeArp a).length < 8 + 2 * a.senderHwAddr.length + 2 * a.senderProtoAddr.length := by omega
  have htrailLen : (encodeArp a).length - (8 + 2 * a.senderHwAddr.length + 2 * a.senderProtoAddr.length) = a.trailing.length := by
    omega
  have hunder : arpUnderlen (encodeArp a).length =
      decide (8 + 2 * a.senderHwAddr.length + 2 * a.senderProtoAddr.length + a.trailing.length < 28) := by
    rw [hlen]
    rfl
  rw [hconsumed, htrailLen] at htrail
  simp only [Frame.record, encodedRecord, hhtype, hptype, hhlen, hplen, hoper, BitVec.toNat_ofNat, Nat.mod_eq_of_lt hh256,
    Nat.mod_eq_of_lt hp256, hsha, hspa, htha, htpa, hconsumed, htrailLen, htrail, anyNonZero_eq, arpTrunc, decide_eq_false hle,
    hunder]

end

/-- Settles O5: the whole buffer is the packet. -/
theorem arpDecodeRecoversEveryEncodedField : Obligations.ArpDecodeRecoversEveryEncodedField := by
  intro s a hwf hraw
  have hlen := encodeArp_length hwf
  have hslen : s.raw.len = (encodeArp a).length := by rw [hraw, Frame.len_ofBytes]
  have hrecord : s.raw.record 0 s.raw.len = encodedRecord a := by
    rw [hslen, hraw]
    exact record_encodeArp [] hwf
  have h8 : ¬ s.raw.len < 8 := by omega
  refine ⟨_, a.senderHwAddr.length, a.senderProtoAddr.length, arpRun_whole_eq s, ?_⟩
  rw [if_neg h8]
  exact ⟨rfl, rfl, rfl, hrecord⟩

/-- Settles O6: the frame's header with the length flag off for 0x0806, and the packet after the header. -/
theorem demuxRecoversAnArpPacketInsideAFrame : Obligations.DemuxRecoversAnArpPacketInsideAFrame := by
  intro s f a hwf hawf het hpayload hraw hl
  have henc := encodedFrame hwf
  rw [← hraw] at henc
  obtain ⟨haccepted, hheader, ⟨pre, hbytes, hpre⟩, hlength⟩ := henc
  have hetype : s.raw.etype = Const.etypeArp :=
    (Option.some.inj (congrArg Header.etherType hheader)).trans het
  have hlen := encodeArp_length hawf
  rw [hpayload] at hbytes hlength
  have hrecord : s.raw.record (headerLength s.raw.tagged) s.raw.payloadLength = encodedRecord a := by
    rw [hlength, ← hpre, hraw, hbytes]
    exact record_encodeArp pre hawf
  obtain ⟨t, ht, hresult⟩ := execDemux_result hl
  refine ⟨t, a.senderHwAddr.length, a.senderProtoAddr.length, ht, ?_⟩
  cases hresult with
  | frameFailed hshort => rw [haccepted] at hshort; cases hshort
  | payloadOpaque _ hne => exact absurd hetype hne
  | arpFailed _ _ hn => omega
  | arpDecoded =>
    refine ⟨rfl, rfl, rfl, rfl, ?_, hrecord⟩
    change s.raw.header = _
    rw [hheader, encodedHeader, het]
    rfl

end Sys2Proof.Machine
end

section
/-! The length checks, ArpDecoder's steps after the fixed header, the code points of the ETH12 and ETYPE windows when
FrameDecoder has reached them, and the steps of the machine as a whole. -/

namespace Sys2Proof.Machine

/-! ## The length checks of FrameDecoder -/

section
variable {s : State} {c : Nat}

theorem execFdLenchk_fails (hat : s.FrameAt 0 c) (hlen : s.raw.len < 15) : execFdLenchk s = .next (raiseTooShort .frame s) := by
  rw [execFdLenchk, hat.inDecoder_eq, if_pos hlen]

theorem execFdLenchk_goesOn (hat : s.FrameAt 0 c) (hlen : 15 ≤ s.raw.len) : execFdLenchk s = .next (s.reach .frame c 1) := by
  rw [execFdLenchk, hat.inDecoder_eq, if_neg (Nat.not_lt.2 hlen)]

theorem execFdVlanchk_fails (hat : s.FrameAt 4 c) (htag : s.hdr.vlanPresent = some true) (hlen : s.raw.len < 18) :
    execFdVlanchk s = .next (raiseTooShort .frame s) := by
  rw [execFdVlanchk, hat.inDecoder_eq, htag, need_some, Bool.true_and, if_pos (decide_eq_true hlen)]

theorem execFdVlanchk_goesOn {tagged : Bool} (hat : s.FrameAt 4 c) (htag : s.hdr.vlanPresent = some tagged)
    (hlen : tagged = false ∨ 18 ≤ s.raw.len) : execFdVlanchk s = .next (s.reach .frame c 5) := by
  have hpass : (tagged && decide (s.raw.len < 18)) = false := by
    obtain rfl | h := hlen
    · rfl
    · rw [decide_eq_false (Nat.not_lt.2 h), Bool.and_false]
  rw [execFdVlanchk, hat.inDecoder_eq, htag, need_some, if_neg (by rw [hpass]; exact Bool.false_ne_true)]

end

/-- Settles O28: both checks, failing and passing. -/
theorem fdLengthChecksFailExactlyOnFramesTooShort : Obligations.FdLengthChecksFailExactlyOnFramesTooShort := by
  intro s c
  rw [Frame.length_bytes]
  refine ⟨fun hat => ⟨execFdLenchk_fails hat, execFdLenchk_goesOn hat⟩, fun tagged hat htag => ⟨?_, execFdVlanchk_goesOn hat htag⟩⟩
  rintro ⟨rfl, hlen⟩
  exact execFdVlanchk_fails hat htag hlen

/-! ## ArpDecoder's steps on its input -/

section
variable {s : State} {c : Nat}

theorem State.ArpInputInFrame.length_eq (h : s.ArpInputInFrame) : s.arpInput.length = s.arpLen := by
  have hin : s.arpView.1 + s.arpLen ≤ s.raw.len := h
  rw [s.arpInput_length]
  omega

/-- An input that is the end of the buffer. -/
theorem arpInput_eq_drop (hin : s.arpView.1 + s.arpView.2 = s.raw.len) : s.arpInput = s.raw.bytes.drop s.arpView.1 := by
  rw [State.arpInput, State.paySlice, Frame.slice_eq]
  refine List.take_of_length_le ?_
  rw [List.length_drop, Frame.length_bytes, State.arpLen]
  omega

/-- `PaySlice` is the clamped slice of the input (00 R14, 92 D5). -/
theorem paySlice_eq (hin : s.arpView.1 + s.arpView.2 = s.raw.len) (o n : Nat) :
    s.paySlice o n = (s.arpInput.drop o).take n := by
  rw [arpInput_eq_drop hin, List.drop_drop, State.paySlice, Frame.slice_eq]

theorem execAdLenchk_reached (hat : s.ArpAt 0 c) :
    execAdLenchk s = .next ((s.setArp { s.arp with wArpUnderlen := some (arpUnderlen s.arpLen) }).reach .arp c 1) := by
  rw [execAdLenchk, hat.inDecoder_eq]

theorem execAdHdrchk_fails (hat : s.ArpAt 1 c) (hlen : s.arpLen < 8) : execAdHdrchk s = .next (raiseTooShort .arp s) := by
  rw [execAdHdrchk, hat.inDecoder_eq, if_pos hlen]

theorem execAdHdrchk_goesOn (hat : s.ArpAt 1 c) (hlen : 8 ≤ s.arpLen) : execAdHdrchk s = .next (s.reach .arp c 2) := by
  rw [execAdHdrchk, hat.inDecoder_eq, if_neg (Nat.not_lt.2 hlen)]

end

/-- Settles O35: on an input inside the buffer its length is what the two checks compare. -/
theorem adLengthChecksFlagBelow28AndFailBelow8 : Obligations.AdLengthChecksFlagBelow28AndFailBelow8 := by
  intro s c hin
  rw [hin.length_eq]
  exact ⟨fun hat => ⟨arpUnderlen s.arpLen, decide_eq_true_iff, execAdLenchk_reached hat⟩,
    fun hat => ⟨execAdHdrchk_fails hat, execAdHdrchk_goesOn hat⟩⟩

/-- Settles O37: each step takes the slice at the cursor, which is the input's. -/
theorem adAddressStepsSliceAtTheCursor : Obligations.AdAddressStepsSliceAtTheCursor := by
  intro s off h p _ hend hh hp
  have hslice := paySlice_eq hend off
  refine ⟨fun hat => ?sha, fun hat => ?spa, fun hat => ?tha, fun hat => ?tpa⟩ <;> rw [← hslice]
  case sha =>
    change execAdSha s = _
    rw [execAdSha, hat.inDecoder_eq, hh]
    rfl
  case spa =>
    change execAdSpa s = _
    rw [execAdSpa, hat.inDecoder_eq, hp]
    rfl
  case tha =>
    change execAdTha s = _
    rw [execAdTha, hat.inDecoder_eq, hh]
    rfl
  case tpa =>
    change execAdTpa s = _
    rw [execAdTpa, hat.inDecoder_eq, hp]
    rfl

/-- Some byte from a place on is not zero. -/
theorem anyNonZero_drop_iff (bytes : List Byte) (n : Nat) :
    anyNonZero (bytes.drop n) = true ↔ ∃ i, n ≤ i ∧ i < bytes.length ∧ bytes.getD i 0#8 ≠ 0#8 := by
  rw [anyNonZero_eq, decide_eq_true_iff]
  constructor
  · rintro ⟨b, hb, hne⟩
    obtain ⟨j, hj, rfl⟩ := List.mem_iff_getElem.1 hb
    have hlt : n + j < bytes.length := by
      rw [List.length_drop] at hj
      omega
    refine ⟨n + j, Nat.le_add_right n j, hlt, ?_⟩
    rwa [List.getD_eq_getElem _ _ hlt, ← List.getElem_drop]
  · rintro ⟨i, hn, hi, hne⟩
    rw [List.getD_eq_getElem _ _ hi] at hne
    refine ⟨bytes[i], List.mem_iff_getElem.2 ⟨i - n, by rw [List.length_drop]; omega, ?_⟩, hne⟩
    rw [List.getElem_drop]
    congr 1
    omega

/-- Settles O38: the flag of AD.TRUNC compares with the input's length, that of AD.TRAIL looks at the input from the
consumed length on. -/
theorem adTruncAndTrailJudgeTheEndOfThePayload : Obligations.AdTruncAndTrailJudgeTheEndOfThePayload := by
  intro s c consumed hend hconsumed
  have hin : s.ArpInputInFrame := hend.le
  rw [hin.length_eq]
  constructor
  · intro hat
    refine ⟨arpTrunc s.arpLen consumed, decide_eq_true_iff, ?_⟩
    change execAdTrunc s = _
    rw [execAdTrunc, hat.inDecoder_eq, hconsumed]
    rfl
  · intro hat
    have hslice : s.paySlice consumed (s.arpLen - consumed) = s.arpInput.drop consumed := by
      rw [paySlice_eq hend]
      refine List.take_of_length_le ?_
      rw [List.length_drop, hin.length_eq]
    have hflag := anyNonZero_drop_iff s.arpInput consumed
    rw [hin.length_eq] at hflag
    refine ⟨anyNonZero (s.arpInput.drop consumed), hflag, ?_⟩
    change execAdTrail s = _
    rw [execAdTrail, hat.inDecoder_eq, hconsumed, need_some, hslice]
    rfl

/-! ## The ETH12 code points -/

section
variable {s : State} {c : Nat}

/-- In a tagged header of 18 bytes the four steps read the tag and the EtherType and delimit the payload. -/
theorem taggedSteps_tagged (hat : s.FrameAt 4 c) (hs : frameFailed s = false) (htag : s.hdr.vlanPresent = some true)
    (hlen : 18 ≤ s.raw.len) :
    runSteps frameFailed taggedSteps s = .next ((s.setHdr { s.hdr with
      vlanTag := some (be32 (s.raw.byte 12) (s.raw.byte 13) (s.raw.byte 14) (s.raw.byte 15)),
      etherType := some (be16 (s.raw.byte 16) (s.raw.byte 17)), hdrLen := some 18, payloadOff := some 18,
      payloadLen := some (s.raw.len - 18) }).reach .frame 18 8) := by
  have hchk := execFdVlanchk_goesOn hat htag (.inr hlen)
  have hvlan := execFdVlantag_tagged (s := s.reach .frame c 5) ⟨hat.1, rfl⟩ htag (Nat.le_trans (by decide) hlen)
  have hetype := execFdEtype_tagged (s := ((s.reach .frame c 5).setHdr { s.hdr with
    vlanTag := some (be32 (s.raw.byte 12) (s.raw.byte 13) (s.raw.byte 14) (s.raw.byte 15)) }).reach .frame 16 6)
    ⟨hat.1, rfl⟩ htag hlen
  refine (runSteps_goesOn hchk hs).trans ((runSteps_goesOn hvlan hs).trans ((runSteps_goesOn hetype hs).trans ?_))
  rw [runSteps_singleton]
  exact execFdPayload_reached (tagged := true) ⟨hat.1, rfl⟩ htag hlen

theorem taggedSteps_short (hat : s.FrameAt 4 c) (htag : s.hdr.vlanPresent = some true) (hlen : s.raw.len < 18) :
    runSteps frameFailed taggedSteps s = .next (raiseTooShort .frame s) := by
  rw [taggedSteps, runSteps_cons_next (execFdVlanchk_fails hat htag hlen)]
  rfl

theorem execCpEth12Vlan_reached (hat : s.FrameAt 3 c) :
    execCpEth12Vlan s =
      runSteps frameFailed taggedSteps ((s.setHdr { s.hdr with vlanPresent := some true }).reach .frame c 4) :=
  hat.inDecoder_eq _

theorem execCpEth12Plain_reached (hat : s.FrameAt 3 c) (hlen : 14 ≤ s.raw.len) (et : Half) :
    execCpEth12Plain et s = .next ((s.setHdr { s.hdr with
      vlanPresent := some false, etherType := some et, hdrLen := some 14, payloadOff := some 14,
      payloadLen := some (s.raw.len - 14) }).reach .frame 14 8) :=
  (hat.inDecoder_eq _).trans (execFdPayload_reached (tagged := false) ⟨hat.1, rfl⟩ rfl hlen)

end

/-- Settles O39: the marker's code point by the four steps it carries out, the other by FD.PAYLOAD. -/
theorem eth12CodePointsSelectTheHeaderFormat : Obligations.Eth12CodePointsSelectTheHeaderFormat := by
  intro s c hs hat
  have hgoes : frameFailed s = false := by
    rw [frameFailed, (hs.frameRunning (frameCursor_of_cursor hat.2)).1]
    rfl
  rw [Frame.length_bytes]
  refine ⟨fun hlen => ⟨_, _, (be32At_raw s.raw 12 (Nat.le_trans (by decide) hlen)).symm, (be16At_raw s.raw 16 hlen).symm, ?_⟩,
    fun hlen => ⟨_, (execCpEth12Vlan_reached hat).trans (taggedSteps_short ⟨hat.1, rfl⟩ rfl hlen), rfl, rfl⟩,
    fun et _ hlen => execCpEth12Plain_reached hat hlen et⟩
  exact (execCpEth12Vlan_reached hat).trans (taggedSteps_tagged ⟨hat.1, rfl⟩ hgoes rfl hlen)

/-! ## The ETYPE code points -/

/-- The state in which FrameDecoder's end leaves a run that has reached FD.LENWARN (41 R119). -/
def frameEnded (etherType : Half) (n : Nat) (s : State) : State :=
  { s with hdr := { s.hdr with wLenMismatch := some (lenMismatch etherType n) }, frameStatus := .ok, arp := ArpRecord.invalid,
           cursor := none }

theorem finishFrame_reached {s : State} {c n : Nat} (hat : s.FrameAt 8 c) (hn : s.hdr.payloadLen = some n) (v : Half) :
    finishFrame v s = .next (frameEnded v n s) := by
  rw [finishFrame_running hat, lenwarnOf_of_payloadLen hn, andThen]
  exact decoderReturn_frame_reached ⟨hat.1, rfl⟩

theorem lenMismatch_of_gt {v : Half} (h : 1500 < v.toNat) (n : Nat) : lenMismatch v n = false := by
  rw [lenMismatch_eq, decide_eq_false]
  omega

/-- Settles O40: FrameDecoder's end in a run, or nothing after the return; then ArpDecoder on the payload, or an opaque
payload. -/
theorem etypeCodePointsDecideWhatThePayloadIs : Obligations.EtypeCodePointsDecideWhatThePayloadIs := by
  constructor
  · intro s c o n hat ho hn hin
    have hend := finishFrame_reached hat hn
    refine ⟨?arp, fun len hlen => ⟨lenMismatch len n, ?flag, ?length⟩, fun et het _ => ?other⟩
    case arp =>
      have harp := arpRun_payload_eq (s := frameEnded Const.etypeArp n s) rfl hat.1 ho hn hin.le
      refine ⟨_, (congrArg (fun x => andThen x (arpRun .arpPayload)) (hend _)).trans harp, ?_⟩
      by_cases h8 : n < 8
      · rw [if_pos h8]
        exact ⟨rfl, rfl, fun h => absurd h8 (Nat.not_lt.2 h), fun _ => ⟨rfl, rfl⟩⟩
      · rw [if_neg h8]
        exact ⟨rfl, rfl, fun h => ⟨rfl, s.raw.record_matches o n h hin⟩, fun h => absurd h h8⟩
    case flag =>
      rw [lenMismatch_iff]
      exact and_iff_right hlen
    case length =>
      change notArp len s = _
      rw [notArp, hend]
      rfl
    case other =>
      change notArp et s = _
      rw [notArp, hend, andThen, frameEnded, lenMismatch_of_gt het]
      rfl
  · intro s et hcur hok hheld het
    have hend : ∀ v, finishFrame v s = .next s := fun v => finishFrame_after_return hcur hok hheld het
    refine ⟨?_, fun len _ => ?_, fun v _ _ => ?_⟩
    · change execCpEtypeArp s = _
      rw [execCpEtypeArp, hend]
      rfl
    · change notArp len s = _
      rw [notArp, hend]
      rfl
    · change notArp v s = _
      rw [notArp, hend]
      rfl

/-! ## The steps of the machine -/

/-- The bytes of a window that holds `v` are those of `v` (30 R88). -/
theorem windowBytes_of_holds {s : State} {w : Window} {v : Half} (h : s.WindowHolds w v) (k : List Byte → Out) :
    windowBytes w s k = k (halfBytes v) := by
  cases w with
  | eth12 =>
    obtain ⟨⟨c, hat⟩, hlen, hv⟩ := h
    rw [be16At_raw s.raw 12 hlen] at hv
    rw [windowBytes_eth12, hat.inDecoder_eq, memRead16_inside hlen, BitVec.eq_of_toNat_eq hv]
  | etype =>
    obtain ⟨⟨c, hat⟩ | ⟨hcur, hok⟩, hv⟩ := h
    · simp only [windowBytes, hat.2]
      rw [hat.inDecoder_eq, hv, need_some]
    · simp only [windowBytes, hcur]
      rw [validHdr_ok hok, hv, need_some]
  | arpHtype | arpPtype | arpOper =>
    obtain ⟨hok, hv⟩ := h
    simp only [windowBytes]
    rw [validArp_ok hok, hv, need_some]

theorem State.WindowHolds.setPending {s : State} {w : Window} {v : Half} (h : s.WindowHolds w v) (p : List Op) :
    (s.setPending p).WindowHolds w v := by
  cases w <;> exact h

/-- Settles O7: a requested row runs by name, and a window's bits run what they decode to. -/
theorem stepRunsTheRequestedOrDecodedInstruction : Obligations.StepRunsTheRequestedOrDecodedInstruction := by
  constructor
  · intro s i rest hp hcp hwf
    have hreq : i.requestable s.cfg.etypeNames = true := by rw [Instr.requestable, hcp, hwf]; rfl
    rw [step_cons hp]
    exact if_pos hreq
  · intro s w rest v i hp hholds hdecode
    rw [step_cons hp]
    change runWindow w (s.setPending rest) = _
    rw [runWindow_eq, windowBytes_of_holds (hholds.setPending rest)]
    exact runSelected_ok hdecode

/-- Settles O8: the three requests that run no instruction. -/
theorem idlePresentAndResetSteps : Obligations.IdlePresentAndResetSteps :=
  ⟨fun _ => step_idle, fun _ bytes _ hp => ⟨_, step_cons hp, Frame.bytes_ofBytes bytes, rfl⟩, fun _ _ => step_cons⟩

end Sys2Proof.Machine
end

section
/-! The texts (41 R120, 43 R158, R159): the characters of a joined hexadecimal text by place, what a text determines, and
the alphabet (10 R40). -/

namespace Sys2Proof.Machine

/-! ## Hexadecimal digits -/

theorem hexDigit_getElem? {n : Nat} (h : n < 16) : some (hexDigit n) = ("0123456789abcdef".toList)[n]? := by
  interval_cases n <;> rfl

theorem hexDigit_mem {n : Nat} (h : n < 16) : hexDigit n ∈ "0123456789abcdef".toList :=
  List.mem_of_getElem? (hexDigit_getElem? h).symm

theorem hexDigit_inj {m n : Nat} (hm : m < 16) (hn : n < 16) (h : hexDigit m = hexDigit n) : m = n := by
  have hget : ("0123456789abcdef".toList)[m]? = ("0123456789abcdef".toList)[n]? := by
    rw [← hexDigit_getElem? hm, ← hexDigit_getElem? hn, h]
  exact (List.getElem?_inj hm (by decide)).1 hget

theorem hi_lt (b : Byte) : b.toNat / 16 < 16 := Nat.div_lt_of_lt_mul b.isLt

theorem lo_lt (b : Byte) : b.toNat % 16 < 16 := Nat.mod_lt _ (by decide)

/-! ## The joined text -/

/-- Every byte's two digits with a colon before them: `hexJoin` with one more colon in front. -/
def colonHex : List Byte → List Char
  | [] => []
  | b :: rest => ':' :: hexDigit (b.toNat / 16) :: hexDigit (b.toNat % 16) :: colonHex rest

theorem colonHex_of_ne_nil : ∀ {bytes : List Byte}, bytes ≠ [] → colonHex bytes = ':' :: hexJoin bytes
  | [], h => absurd rfl h
  | [_], _ => rfl
  | b :: c :: rest, _ => by
    rw [colonHex, colonHex_of_ne_nil (List.cons_ne_nil c rest)]
    rfl

/-- The joined text is that of `colonHex` without its first colon. -/
theorem hexJoin_eq (bytes : List Byte) : hexJoin bytes = (colonHex bytes).tail := by
  cases bytes with
  | nil => rfl
  | cons b rest => rw [colonHex_of_ne_nil (List.cons_ne_nil b rest), List.tail_cons]

theorem colonHex_length (bytes : List Byte) : (colonHex bytes).length = 3 * bytes.length := by
  induction bytes with
  | nil => rfl
  | cons b rest ih =>
    simp only [colonHex, List.length_cons, ih]
    omega

/-- Byte `i` stands at the places `3i` to `3i + 2`: a colon and the two digits. -/
theorem colonHex_getElem? {bytes : List Byte} {i : Nat} (h : i < bytes.length) :
    (colonHex bytes)[3 * i]? = some ':' ∧
      (colonHex bytes)[3 * i + 1]? = some (hexDigit ((bytes.getD i 0#8).toNat / 16)) ∧
      (colonHex bytes)[3 * i + 2]? = some (hexDigit ((bytes.getD i 0#8).toNat % 16)) := by
  induction bytes generalizing i with
  | nil => cases h
  | cons b rest ih =>
    cases i with
    | zero => exact ⟨rfl, rfl, rfl⟩
    | succ i => exact ih (Nat.lt_of_succ_lt_succ h)

theorem colonHex_inj : ∀ {x y : List Byte}, colonHex x = colonHex y → x = y
  | [], [], _ => rfl
  | b :: x, c :: y, h => by
    simp only [colonHex, List.cons.injEq, true_and] at h
    obtain ⟨hhi, hlo, hrest⟩ := h
    have hbyte : b = c := by
      have h1 := hexDigit_inj (hi_lt b) (hi_lt c) hhi
      have h2 := hexDigit_inj (lo_lt b) (lo_lt c) hlo
      exact BitVec.eq_of_toNat_eq (by omega)
    rw [hbyte, colonHex_inj hrest]

/-- 43 R158: the joined text loses nothing. -/
theorem hexJoin_inj {x y : List Byte} (h : hexJoin x = hexJoin y) : x = y := by
  have hlen : ∀ b : Byte, ∀ rest, hexJoin (b :: rest) ≠ [] := by
    intro b rest hnil
    rw [hexJoin_eq, colonHex, List.tail_cons] at hnil
    cases hnil
  cases x with
  | nil =>
    cases y with
    | nil => rfl
    | cons c y => exact absurd h.symm (hlen c y)
  | cons b x =>
    cases y with
    | nil => exact absurd h (hlen b x)
    | cons c y =>
      refine colonHex_inj ?_
      rw [colonHex_of_ne_nil (List.cons_ne_nil b x), colonHex_of_ne_nil (List.cons_ne_nil c y), h]

/-! ## MAC_FMT and DOTTED by length -/

theorem macText_of_length {bytes : List Byte} (h : bytes.length = 6) : macText bytes = some (hexJoin bytes) := by
  match bytes, h with
  | [_, _, _, _, _, _], _ => simp [macText, hexJoin, hex2]

theorem macText_of_length_ne {bytes : List Byte} (h : bytes.length ≠ 6) : macText bytes = none := by
  unfold macText
  split
  · exact absurd rfl h
  · rfl

theorem dottedText_of_length_ne {bytes : List Byte} (h : bytes.length ≠ 4) : dottedText bytes = none := by
  unfold dottedText
  split
  · exact absurd rfl h
  · rfl

/-- A dotted text stands for four bytes only. -/
theorem dottedText_some {bytes : List Byte} {text : List Char} (h : dottedText bytes = some text) :
    ∃ a b c d, bytes = [a, b, c, d] ∧ text = dec a ++ '.' :: (dec b ++ '.' :: (dec c ++ '.' :: dec d)) := by
  unfold dottedText at h
  split at h
  · cases h
    exact ⟨_, _, _, _, rfl, rfl⟩
  · cases h

theorem macText_some {bytes : List Byte} {text : List Char} (h : macText bytes = some text) : text = hexJoin bytes := by
  by_cases hlen : bytes.length = 6
  · rw [macText_of_length hlen] at h
    exact (Option.some.inj h).symm
  · rw [macText_of_length_ne hlen] at h
    cases h

/-! ## Decimal numerals -/

theorem dec_inj {a b : Byte} (h : dec a = dec b) : a = b :=
  BitVec.eq_of_toNat_eq (by rw [← dec_value a, ← dec_value b, h])

theorem dot_not_mem_dec (b : Byte) : '.' ∉ dec b := fun h => absurd (dec_digits b '.' h) (by decide)

theorem takeWhile_dec (b : Byte) (s : List Char) : (dec b ++ '.' :: s).takeWhile (· != '.') = dec b := by
  have hdigits : ∀ ch ∈ dec b, (ch != '.') = true := by
    intro ch hch
    rw [bne_iff_ne]
    rintro rfl
    exact dot_not_mem_dec b hch
  rw [List.takeWhile_append_of_pos hdigits, List.takeWhile_cons_of_neg (by decide), List.append_nil]

/-- A numeral ends at the first dot. -/
theorem dec_dot_inj {a b : Byte} {s t : List Char} (h : dec a ++ '.' :: s = dec b ++ '.' :: t) : a = b ∧ s = t := by
  have hdec : dec a = dec b := by rw [← takeWhile_dec a s, h, takeWhile_dec]
  rw [hdec] at h
  exact ⟨dec_inj hdec, List.tail_eq_of_cons_eq (List.append_cancel_left h)⟩

/-- Settles O52: a joined text determines its bytes digit by digit, a dotted text its numerals dot by dot. -/
theorem renderingsAreInjective : Obligations.RenderingsAreInjective := by
  refine ⟨fun _ _ => hexJoin_inj, fun x y t hx hy => ?_⟩
  obtain ⟨a, b, c, d, rfl, rfl⟩ := dottedText_some hx
  obtain ⟨a', b', c', d', rfl, htext⟩ := dottedText_some hy
  obtain ⟨ha, htext⟩ := dec_dot_inj htext
  obtain ⟨hb, htext⟩ := dec_dot_inj htext
  obtain ⟨hc, htext⟩ := dec_dot_inj htext
  rw [ha, hb, hc, dec_inj htext]

/-! ## The formatting functions -/

section
variable {s : State}

theorem execMacFmt_of_length {bytes : List Byte} (h : bytes.length = 6) :
    execMacFmt (.lit bytes) s = .next (s.setAnswer (.text (hexJoin bytes))) := by
  rw [execMacFmt, seqValue_lit, macText_of_length h]

theorem execMacFmt_of_length_ne {bytes : List Byte} (h : bytes.length ≠ 6) :
    execMacFmt (.lit bytes) s = .fault (.lengthRequirement 6 bytes.length) := by
  rw [execMacFmt, seqValue_lit, macText_of_length_ne h]

theorem execDotted_of_length_ne {bytes : List Byte} (h : bytes.length ≠ 4) :
    execDotted (.lit bytes) s = .fault (.lengthRequirement 4 bytes.length) := by
  rw [execDotted, seqValue_lit, dottedText_of_length_ne h]

/-- An operand whose value is `bytes` is formatted as these bytes are. -/
theorem formats_of_seqValue {src : SeqOperand} {bytes : List Byte} (h : ∀ k, seqValue s src k = k bytes) :
    execMacFmt src s = execMacFmt (.lit bytes) s ∧ execHexjoin src s = execHexjoin (.lit bytes) s ∧
      execDotted src s = execDotted (.lit bytes) s :=
  ⟨h _, h _, h _⟩

theorem seqValue_macDest {m : Mac} (hok : s.frameStatus = .ok) (h : s.hdr.macDest = some m) (k : List Byte → Out) :
    seqValue s (.reg .macDest) k = k m.toList := by
  rw [seqValue, seqRegValue, validHdr_ok hok, h, need_some]

theorem seqValue_macSrc {m : Mac} (hok : s.frameStatus = .ok) (h : s.hdr.macSrc = some m) (k : List Byte → Out) :
    seqValue s (.reg .macSrc) k = k m.toList := by
  rw [seqValue, seqRegValue, validHdr_ok hok, h, need_some]

end

/-- Settles O49: the joined text by the places of `colonHex`, MAC_FMT as that text of six bytes. -/
theorem hexFormatsWriteTwoDigitsAByte : Obligations.HexFormatsWriteTwoDigitsAByte := by
  refine ⟨fun s bytes => ⟨hexJoin bytes, rfl, ?length, fun i hi => ?digits, fun i hi => ?colon, execMacFmt_of_length⟩,
    fun s m hok => ⟨fun h => ?dest, fun h => ?src⟩, fun _ _ => execMacFmt_of_length_ne, fun _ _ => execDotted_of_length_ne⟩
  case length => rw [hexJoin_eq, List.length_tail, colonHex_length]
  case digits =>
    obtain ⟨-, hhi, hlo⟩ := colonHex_getElem? hi
    rw [hexJoin_eq, List.getElem?_tail, List.getElem?_tail, hhi, hlo]
    exact ⟨hexDigit_getElem? (hi_lt _), hexDigit_getElem? (lo_lt _)⟩
  case colon =>
    rw [hexJoin_eq, List.getElem?_tail]
    exact (colonHex_getElem? hi).1
  case dest =>
    obtain ⟨hmac, hhex, -⟩ := formats_of_seqValue (seqValue_macDest hok h)
    exact ⟨hmac, hhex⟩
  case src =>
    obtain ⟨hmac, hhex, -⟩ := formats_of_seqValue (seqValue_macSrc hok h)
    exact ⟨hmac, hhex⟩

/-- Settles O50: the value of each operand form is its register's bytes. -/
theorem formatsOfAddressRegistersUseTheirBytes : Obligations.FormatsOfAddressRegistersUseTheirBytes := by
  intro s r bytes hok hr
  have hvalue : ∀ k, seqValue s (.reg r) k = k bytes := by
    intro k
    obtain ⟨rfl, h⟩ | ⟨rfl, h⟩ | ⟨rfl, h⟩ | ⟨rfl, h⟩ := hr <;> rw [seqValue, seqRegValue, validArp_ok hok, h, need_some]
  obtain ⟨hmac, hhex, hdotted⟩ := formats_of_seqValue hvalue
  exact ⟨hhex, fun _ => hdotted, fun hne => hdotted.trans (execDotted_of_length_ne hne), fun _ => hmac,
    fun hne => hmac.trans (execMacFmt_of_length_ne hne)⟩

/-! ## The alphabet -/

/-- The characters that 10 R40 allows. -/
def asciiAlphabet : List Char := "0123456789abcdef:.".toList

/-- A text over the alphabet; any other value answers no text. -/
def Value.Ascii : Value → Prop
  | .text chars | .rendered (.text chars) => ∀ ch ∈ chars, ch ∈ asciiAlphabet
  | _ => True

theorem hexDigit_ascii {n : Nat} (h : n < 16) : hexDigit n ∈ asciiAlphabet := by
  have halphabet : asciiAlphabet = "0123456789abcdef".toList ++ [':', '.'] := by decide
  rw [halphabet]
  exact List.mem_append_left _ (hexDigit_mem h)

theorem dec_ascii (b : Byte) : ∀ ch ∈ dec b, ch ∈ asciiAlphabet := by
  have halphabet : asciiAlphabet = "0123456789".toList ++ "abcdef:.".toList := by decide
  rw [halphabet]
  exact fun ch hch => List.mem_append_left _ (dec_digits b ch hch)

theorem hexJoin_ascii (bytes : List Byte) : (Value.text (hexJoin bytes)).Ascii := by
  have hcolon : ∀ ch ∈ colonHex bytes, ch ∈ asciiAlphabet := by
    induction bytes with
    | nil => exact List.forall_mem_nil _
    | cons b rest ih =>
      simp only [colonHex, List.forall_mem_cons]
      exact ⟨by decide, hexDigit_ascii (hi_lt b), hexDigit_ascii (lo_lt b), ih⟩
  intro ch hch
  rw [hexJoin_eq] at hch
  exact hcolon ch (List.mem_of_mem_tail hch)

theorem dottedText_ascii {bytes : List Byte} {text : List Char} (h : dottedText bytes = some text) :
    (Value.text text).Ascii := by
  have hdot : '.' ∈ asciiAlphabet := by decide
  obtain ⟨a, b, c, d, -, rfl⟩ := dottedText_some h
  simp only [Value.Ascii, List.forall_mem_append, List.forall_mem_cons]
  exact ⟨dec_ascii a, hdot, dec_ascii b, hdot, dec_ascii c, hdot, dec_ascii d⟩

theorem renderHw_ascii (ht : Half) (addr : List Byte) : (Value.rendered (renderHw ht addr)).Ascii := by
  unfold renderHw
  split
  · exact hexJoin_ascii addr
  · trivial

theorem renderProto_ascii (names : List (Half × Symbol)) (pt : Half) (addr : List Byte) :
    (Value.rendered (renderProto names pt addr)).Ascii := by
  unfold renderProto
  split
  · split
    next text h => exact dottedText_ascii h
    next => trivial
  · trivial

/-- The answer of a state, if there is one, is no text or a text over the alphabet. -/
def AsciiAnswer (t : State) : Prop := ∀ v, t.answer = some v → v.Ascii

section
variable {s : State}

theorem ensures_asciiAnswer {v : Value} (h : v.Ascii) : Ensures (.next (s.setAnswer v)) AsciiAnswer :=
  ensures_next fun w hw => by cases hw; exact h

theorem asciiAnswer_of_none {t : State} (h : t.answer = none) : AsciiAnswer t := fun v hv => by
  rw [h] at hv
  cases hv

/-- What an instruction that only answers answers (41 R120, 43, 44, 30 R85 to R87). -/
theorem exec_asciiAnswer_of_answersOnly : ∀ {i : Instr}, answersOnly i = true → Ensures (exec i s) AsciiAnswer
  | .macFmt _, _ => ensures_seqValue fun _ => by
      split
      next text h => exact ensures_asciiAnswer (macText_some h ▸ hexJoin_ascii _)
      next => exact ensures_fault _
  | .hexjoin _, _ => ensures_seqValue fun bytes => ensures_asciiAnswer (hexJoin_ascii bytes)
  | .dotted _, _ => ensures_seqValue fun _ => by
      split
      next text h => exact ensures_asciiAnswer (dottedText_ascii h)
      next => exact ensures_fault _
  | .avSpaStr, _ | .avTpaStr, _ => ensures_validArp fun pt _ => ensures_validArp fun addr _ =>
      ensures_asciiAnswer (renderProto_ascii s.cfg.etypeNames pt addr)
  | .avShaStr, _ | .avThaStr, _ => ensures_validArp fun ht _ => ensures_validArp fun addr _ =>
      ensures_asciiAnswer (renderHw_ascii ht addr)
  | .demuxSel, _ => ensures_validHdr fun _ _ => ensures_asciiAnswer trivial
  | .avHwname, _ | .avPtname, _ => ensures_validArp fun _ _ => ensures_asciiAnswer trivial
  | .avOpclass, _ => ensures_validArp fun _ _ => ensures_validArp fun _ _ => ensures_validArp fun _ _ =>
      ensures_validArp fun _ _ => ensures_validArp fun _ _ => ensures_asciiAnswer trivial
  | .cpHtypeEthernet, _ | .cpHtypeOther _, _ | .cpPtypeIpv4, _ | .cpPtypeArp, _ | .cpPtypeOther _, _ | .cpOperRequest, _
  | .cpOperReply, _ | .cpOperOther _, _ => ensures_asciiAnswer trivial

end

/-! ## The decoders answer nothing -/

/-- From a state without an answer the operation goes to a state without one. -/
def Silent (f : State → Out) : Prop := ∀ s, s.answer = none → Ensures (f s) fun t => t.answer = none

theorem FrameMove.answer {s t : State} (h : FrameMove s t) : t.answer = s.answer := by
  cases h <;> rfl

theorem ArpMove.answer {s t : State} (h : ArpMove s t) : t.answer = s.answer := by
  cases h <;> rfl

theorem MovesFrame.silent {f : State → Out} (hf : MovesFrame f) : Silent f := fun s hs t ht =>
  (hf s t ht).2.answer.trans hs

theorem MovesArp.silent {f : State → Out} (hf : MovesArp f) : Silent f := fun s hs t ht =>
  (hf s t ht).2.answer.trans hs

theorem runSteps_silent {failed : State → Bool} {steps : List (State → Out)} (h : ∀ f ∈ steps, Silent f) :
    Silent (runSteps failed steps) := fun _ hs _ ht =>
  runSteps_keeps (P := fun u => u.answer = none) (fun f hf u v hu hv => h f hf u hu v hv) hs ht

theorem startRun_silent : ∀ e, Silent (startRun e)
  | .frame => fun _ _ t ht => by obtain ⟨-, rfl⟩ := startFrame_next ht; rfl
  | .arpPayload => fun _ _ t ht => by obtain ⟨-, -, -, -, rfl⟩ := startArpPayload_next ht; rfl
  | .arpWhole => fun _ _ => ensures_next rfl

theorem decoderReturn_silent : ∀ d, Silent (decoderReturn d)
  | .frame => fun _ hs t ht => by obtain ⟨-, -, rfl⟩ := decoderReturn_frame_next ht; exact hs
  | .arp => fun _ hs t ht => by obtain ⟨-, -, rfl⟩ := decoderReturn_arp_next ht; exact hs

theorem arpRun_silent (e : Entry) : Silent (arpRun e) := by
  refine runSteps_silent ?_
  simp only [List.forall_mem_cons, List.forall_mem_append]
  exact ⟨startRun_silent e, fun f hf => (arpSteps_move f hf).silent, decoderReturn_silent .arp, List.forall_mem_nil _⟩

theorem execFrameDecode_silent : Silent execFrameDecode := by
  refine runSteps_silent ?_
  simp only [List.forall_mem_cons, List.forall_mem_append]
  exact ⟨startRun_silent .frame, fun f hf => (frameSteps_move f hf).silent, decoderReturn_silent .frame,
    List.forall_mem_nil _⟩

theorem afterFrame_silent : Silent afterFrame := fun s hs =>
  ensures_ite (fun _ => ensures_next hs) fun _ => ensures_validHdr fun _ _ =>
    ensures_ite (fun _ => arpRun_silent .arpPayload s hs) fun _ => ensures_next hs

theorem execDemux_silent : Silent execDemux := fun s hs =>
  ensures_andThen (execFrameDecode_silent s hs) afterFrame_silent

theorem execCpEth12Vlan_silent : Silent execCpEth12Vlan := fun _ hs =>
  ensures_inDecoder fun _ _ _ =>
    runSteps_silent (fun f hf => (frameSteps_move f (taggedSteps_subset f hf)).silent) _ hs

theorem execCpEth12Plain_silent (etherType : Half) : Silent (execCpEth12Plain etherType) := fun _ hs =>
  ensures_inDecoder fun _ _ _ => execFdPayload_moves.silent _ hs

theorem finishFrame_silent (etherType : Half) : Silent (finishFrame etherType) := fun s hs t ht => by
  obtain ⟨-, ⟨_, _, -, -, rfl⟩ | ⟨-, -, -, rfl⟩⟩ := finishFrame_next ht <;> exact hs

theorem execCpEtypeArp_silent : Silent execCpEtypeArp := fun s hs =>
  ensures_andThen (finishFrame_silent _ s hs) (arpRun_silent .arpPayload)

theorem notArp_silent (etherType : Half) : Silent (notArp etherType) := fun s hs =>
  ensures_andThen (finishFrame_silent etherType s hs) fun _ hu => ensures_next hu

theorem exec_silent : ∀ i, answersOnly i = false → Silent (exec i)
  | .cpEth12Vlan, _ => execCpEth12Vlan_silent
  | .cpEth12Plain etherType, _ => execCpEth12Plain_silent etherType
  | .cpEtypeArp, _ => execCpEtypeArp_silent
  | .cpEtypeLength etherType, _ | .cpEtypeOther etherType, _ => notArp_silent etherType
  | .demux, _ => execDemux_silent
  | .frameDecode, _ => execFrameDecode_silent
  | .arpDecode .payload, _ => arpRun_silent .arpPayload
  | .arpDecode .whole, _ => arpRun_silent .arpWhole
  | .fdLenchk, _ => execFdLenchk_moves.silent
  | .fdMacdst, _ => execFdMacdst_moves.silent
  | .fdMacsrc, _ => execFdMacsrc_moves.silent
  | .fdVlanpeek, _ => execFdVlanpeek_moves.silent
  | .fdVlanchk, _ => execFdVlanchk_moves.silent
  | .fdVlantag, _ => execFdVlantag_moves.silent
  | .fdEtype, _ => execFdEtype_moves.silent
  | .fdPayload, _ => execFdPayload_moves.silent
  | .fdLenwarn, _ => execFdLenwarn_moves.silent
  | .adLenchk, _ => execAdLenchk_moves.silent
  | .adHdrchk, _ => execAdHdrchk_moves.silent
  | .adHtype, _ => execAdHtype_moves.silent
  | .adPtype, _ => execAdPtype_moves.silent
  | .adHlen, _ => execAdHlen_moves.silent
  | .adPlen, _ => execAdPlen_moves.silent
  | .adOper, _ => execAdOper_moves.silent
  | .adSha, _ => execAdSha_moves.silent
  | .adSpa, _ => execAdSpa_moves.silent
  | .adTha, _ => execAdTha_moves.silent
  | .adTpa, _ => execAdTpa_moves.silent
  | .adTrunc, _ => execAdTrunc_moves.silent
  | .adTrail, _ => execAdTrail_moves.silent

/-- Settles O53: an instruction answers no text, or one over the alphabet. -/
theorem textsAreDrawnFromTheAsciiAlphabet : Obligations.TextsAreDrawnFromTheAsciiAlphabet := by
  intro i s t text hs ht htext
  have hascii : AsciiAnswer t := by
    cases hi : answersOnly i with
    | true => exact exec_asciiAnswer_of_answersOnly hi t ht
    | false => exact asciiAnswer_of_none (exec_silent i hi s hs t ht)
  obtain h | h := htext
  · exact hascii _ h
  · exact hascii _ h

end Sys2Proof.Machine
end

section
/-! The views of a decoded record (43 R160 to R163, 44 R170) and what they do without one, the codes and `diag` (10 R36 to
R39), and the requests that come at the wrong place (41 R110, 42 R130, 20 R62). -/

namespace Sys2Proof.Machine

/-! ## Renderings -/

theorem renderHw_eq (ht : Half) (addr : List Byte) :
    renderHw ht addr = if ht = 1 then .text (hexJoin addr) else .bytes addr := by
  by_cases h : ht = 1
  · rw [h]
    rfl
  · have hname : hwName ht ≠ .named .ethernet := by
      rw [hwName_of_ne_one h]
      nofun
    rw [renderHw, if_neg hname, if_neg h]

/-- Settles O46: both views render by the hardware type. -/
theorem hardwareAddressViewsRenderEthernetAsHex : Obligations.HardwareAddressViewsRenderEthernetAsHex := by
  intro s ht sha tha hok hht hsha htha
  rw [← renderHw_eq, ← renderHw_eq]
  constructor
  · change execAvShaStr s = _
    rw [execAvShaStr, validArp_ok hok, hht, need_some, validArp_ok hok, hsha]
    rfl
  · change execAvThaStr s = _
    rw [execAvThaStr, validArp_ok hok, hht, need_some, validArp_ok hok, htha]
    rfl

section
variable {names : List (Half × Symbol)}

theorem renderProto_dotted (hnames : Config.namesOk names = true) (a b c d : Byte) :
    renderProto names Const.etypeIpv4 [a, b, c, d] = .text (dec a ++ ['.'] ++ dec b ++ ['.'] ++ dec c ++ ['.'] ++ dec d) := by
  rw [renderProto, if_pos ((ptName_ipv4_iff hnames).2 rfl), dottedText_four]

theorem renderProto_bytes (hnames : Config.namesOk names = true) {pt : Half} {addr : List Byte}
    (h : pt ≠ 0x0800 ∨ addr.length ≠ 4) : renderProto names pt addr = .bytes addr := by
  by_cases hpt : ptName names pt = .named .ipv4
  · have hlen := h.resolve_left (absurd ((ptName_ipv4_iff hnames).1 hpt))
    rw [renderProto, if_pos hpt, dottedText_of_length_ne hlen]
  · rw [renderProto, if_neg hpt]

/-- What the rendering of a protocol address says, whichever address it is. -/
theorem renderProto_facts (hnames : Config.namesOk names = true) (pt : Half) (addr : List Byte) :
    (pt = 0x0800 → ∀ a b c d, addr = [a, b, c, d] →
      renderProto names pt addr = .text (dec a ++ ['.'] ++ dec b ++ ['.'] ++ dec c ++ ['.'] ++ dec d)) ∧
    (pt ≠ 0x0800 ∨ addr.length ≠ 4 → renderProto names pt addr = .bytes addr) := by
  refine ⟨?_, renderProto_bytes hnames⟩
  rintro rfl a b c d rfl
  exact renderProto_dotted hnames a b c d

end

/-- Settles O47: both views render by the name of the protocol type. -/
theorem protocolAddressViewsRenderIpv4AsDotted : Obligations.ProtocolAddressViewsRenderIpv4AsDotted := by
  intro s pt spa tpa hnames hok hpt hspa htpa
  refine ⟨⟨_, ?spa, renderProto_facts hnames pt spa⟩, ⟨_, ?tpa, renderProto_facts hnames pt tpa⟩⟩
  case spa =>
    change execAvSpaStr s = _
    rw [execAvSpaStr, validArp_ok hok, hpt, need_some, validArp_ok hok, hspa]
    rfl
  case tpa =>
    change execAvTpaStr s = _
    rw [execAvTpaStr, validArp_ok hok, hpt, need_some, validArp_ok hok, htpa]
    rfl

/-! ## The class of an operation -/

/-- The six outcomes of `classify`, each as the condition under which it is the first to hold (44 R170). -/
theorem classify_iff (op : Half) (sha spa tha tpa : List Byte) {c1 c2 c3 : Prop} (h1 : c1 ↔ spa = tpa ∧ sha = tha)
    (h2 : c2 ↔ tpa = spa ∧ tha = Const.zeroMac) (h3 : c3 ↔ op = Const.opRequest ∧ tpa = Const.zeroIpv4) :
    (classify op sha spa tha tpa = .announcement ↔ c1) ∧
    (classify op sha spa tha tpa = .gratuitous ↔ ¬ c1 ∧ c2) ∧
    (classify op sha spa tha tpa = .probe ↔ ¬ c1 ∧ ¬ c2 ∧ c3) ∧
    (classify op sha spa tha tpa = .request ↔ ¬ c1 ∧ ¬ c2 ∧ ¬ c3 ∧ op = Const.opRequest) ∧
    (classify op sha spa tha tpa = .reply ↔ ¬ c1 ∧ ¬ c2 ∧ op = Const.opReply) ∧
    (classify op sha spa tha tpa = .invalid ↔ ¬ c1 ∧ ¬ c2 ∧ op ≠ Const.opRequest ∧ op ≠ Const.opReply) := by
  have hdistinct : Const.opRequest ≠ Const.opReply := by decide
  rw [classify]
  by_cases hc1 : c1
  · rw [if_pos (h1.1 hc1)]
    simp [hc1]
  rw [if_neg (mt h1.2 hc1)]
  by_cases hc2 : c2
  · rw [if_pos (h2.1 hc2)]
    simp [hc1, hc2]
  rw [if_neg (mt h2.2 hc2)]
  by_cases hc3 : c3
  · rw [if_pos (h3.1 hc3)]
    simp [hc1, hc2, hc3, (h3.1 hc3).1, hdistinct]
  rw [if_neg (mt h3.2 hc3)]
  by_cases hreq : op = Const.opRequest
  · rw [if_pos hreq]
    simp [hc1, hc2, hc3, hreq, hdistinct]
  rw [if_neg hreq]
  by_cases hrep : op = Const.opReply
  · rw [if_pos hrep]
    simp [hc1, hc2, hc3, hrep, hdistinct.symm]
  · rw [if_neg hrep]
    simp [hc1, hc2, hc3, hreq, hrep]

/-- Settles O48: the view answers `classify` of the five registers. -/
theorem opclassIsTheFirstConditionThatHolds : Obligations.OpclassIsTheFirstConditionThatHolds := by
  intro s op sha spa tha tpa hok hop hsha hspa htha htpa
  refine ⟨classify op sha spa tha tpa, ?_, fun _ _ _ => classify_iff op sha spa tha tpa⟩
  change execAvOpclass s = _
  rw [execAvOpclass, validArp_ok hok, hop, need_some, validArp_ok hok, hsha, need_some, validArp_ok hok, hspa, need_some,
    validArp_ok hok, htha, need_some, validArp_ok hok, htpa]
  rfl

/-! ## Without a record -/

section
variable {α : Type} {s : State}

theorem validHdr_invalid (h : s.frameStatus ≠ .ok) (f : Header → Option α) (r : Reg) (k : α → Out) :
    validHdr s f r k = .fault (.invalidRegister r) := if_neg h

theorem validArp_invalid (h : s.arpStatus ≠ .ok) (f : ArpRecord → Option α) (r : Reg) (k : α → Out) :
    validArp s f r k = .fault (.invalidRegister r) := if_neg h

/-- The operand of a formatting function stops when its register's record is not valid. -/
theorem seqValue_invalid {r : SeqReg} (hframe : seqOwner r = .frame → s.frameStatus ≠ .ok)
    (harp : seqOwner r = .arp → s.arpStatus ≠ .ok) (k : List Byte → Out) :
    seqValue s (.reg r) k = .fault (.invalidRegister (seqRegister r)) := by
  cases r with
  | macDest | macSrc => exact validHdr_invalid (hframe rfl) _ _ _
  | senderHwAddr | senderProtoAddr | targetHwAddr | targetProtoAddr => exact validArp_invalid (harp rfl) _ _ _

end

/-- Settles O55: every view first reads a register of the record. -/
theorem viewsStopWithoutTheirRecord : Obligations.ViewsStopWithoutTheirRecord := by
  refine ⟨fun s h => ?_, fun s r format hformat hframe harp => ?_, fun s h => validHdr_invalid h _ _ _⟩
  · exact ⟨validArp_invalid h _ _ _, validArp_invalid h _ _ _, validArp_invalid h _ _ _, validArp_invalid h _ _ _,
      validArp_invalid h _ _ _, validArp_invalid h _ _ _, validArp_invalid h _ _ _⟩
  · have hstop := seqValue_invalid hframe harp
    obtain rfl | rfl | rfl := hformat
    · exact (hstop _ : execMacFmt (.reg r) s = _)
    · exact (hstop _ : execHexjoin (.reg r) s = _)
    · exact (hstop _ : execDotted (.reg r) s = _)

/-! ## Codes and `diag` -/

theorem diagBits_getLsbD (m u tl tc : Bool) :
    (diagBits m u tl tc).getLsbD 0 = m ∧ (diagBits m u tl tc).getLsbD 1 = u ∧ (diagBits m u tl tc).getLsbD 2 = tl ∧
      (diagBits m u tl tc).getLsbD 3 = tc := by
  revert m u tl tc
  decide

theorem readRegister_diag {s : State} (h : diagOf s ≠ ⟨none, none, none, none⟩) :
    readRegister .diag s = .next (s.setAnswer (.diag (diagOf s))) := by
  have hvalue : regValue s .diag = some (.diag (diagOf s)) := if_neg h
  rw [readRegister_of_value hvalue]
  rfl

section
variable {s : State} {m u tl tc : Bool}

theorem diagOf_of_header (hf : s.frameStatus = .ok) (hm : s.hdr.wLenMismatch = some m) : (diagOf s).bit0 = some m :=
  (if_pos hf).trans hm

theorem diagOf_of_record (ha : s.arpStatus = .ok) (hu : s.arp.wArpUnderlen = some u) (htl : s.arp.wArpTrailing = some tl)
    (htc : s.arp.wArpTrunc = some tc) : (diagOf s).bit1 = some u ∧ (diagOf s).bit2 = some tl ∧ (diagOf s).bit3 = some tc :=
  ⟨(if_pos ha).trans hu, (if_pos ha).trans htl, (if_pos ha).trans htc⟩

theorem diagOf_without_header (hf : s.frameStatus ≠ .ok) : (diagOf s).bit0 = none := if_neg hf

theorem diagOf_without_record (ha : s.arpStatus ≠ .ok) :
    (diagOf s).bit1 = none ∧ (diagOf s).bit2 = none ∧ (diagOf s).bit3 = none :=
  ⟨if_neg ha, if_neg ha, if_neg ha⟩

end

theorem Diag.eq_of_bits {d : Diag} {b0 b1 b2 b3 : Option Bool} (h0 : d.bit0 = b0)
    (h123 : d.bit1 = b1 ∧ d.bit2 = b2 ∧ d.bit3 = b3) : d = ⟨b0, b1, b2, b3⟩ := by
  obtain ⟨h1, h2, h3⟩ := h123
  rw [← h0, ← h1, ← h2, ← h3]

/-- Settles O60: the codes by their definitions, `diag` by its four bits. -/
theorem statusAndDiagCodes : Obligations.StatusAndDiagCodes := by
  refine ⟨⟨rfl, rfl, rfl⟩, ⟨rfl, rfl, rfl⟩, rfl, rfl, fun _ _ _ => ⟨rfl, rfl⟩, fun s m u tl tc hf ha hm hu htl htc => ?both,
    fun s m hf ha hm => ?header, fun s u tl tc hf ha hu htl htc => ?record⟩
  case both =>
    have hdiag := Diag.eq_of_bits (diagOf_of_header hf hm) (diagOf_of_record ha hu htl htc)
    have hread := readRegister_diag (s := s) (by rw [hdiag]; nofun)
    rw [hdiag] at hread
    exact ⟨_, _, hread, rfl, diagBits_getLsbD m u tl tc⟩
  case header =>
    have hdiag := Diag.eq_of_bits (diagOf_of_header hf hm) (diagOf_without_record ha)
    rw [readRegister_diag (by rw [hdiag]; nofun), hdiag]
    rfl
  case record =>
    have hdiag := Diag.eq_of_bits (diagOf_without_header hf) (diagOf_of_record ha hu htl htc)
    rw [readRegister_diag (by rw [hdiag]; nofun), hdiag]
    rfl

/-! ## Requests out of place -/

/-- Everything that a row with a place can do is under the guard of that place. -/
theorem exec_of_place (s : State) : ∀ {i : Instr} {d : Decoder} {n : Nat}, i.place = some (d, n) →
    ∃ k, exec i s = inDecoder d n s k
  | .fdLenchk, _, _, rfl => ⟨_, Eq.refl (execFdLenchk s)⟩
  | .fdMacdst, _, _, rfl => ⟨_, Eq.refl (execFdMacdst s)⟩
  | .fdMacsrc, _, _, rfl => ⟨_, Eq.refl (execFdMacsrc s)⟩
  | .fdVlanpeek, _, _, rfl => ⟨_, Eq.refl (execFdVlanpeek s)⟩
  | .fdVlanchk, _, _, rfl => ⟨_, Eq.refl (execFdVlanchk s)⟩
  | .fdVlantag, _, _, rfl => ⟨_, Eq.refl (execFdVlantag s)⟩
  | .fdEtype, _, _, rfl => ⟨_, Eq.refl (execFdEtype s)⟩
  | .fdPayload, _, _, rfl => ⟨_, Eq.refl (execFdPayload s)⟩
  | .fdLenwarn, _, _, rfl => ⟨_, Eq.refl (execFdLenwarn s)⟩
  | .adLenchk, _, _, rfl => ⟨_, Eq.refl (execAdLenchk s)⟩
  | .adHdrchk, _, _, rfl => ⟨_, Eq.refl (execAdHdrchk s)⟩
  | .adHtype, _, _, rfl => ⟨_, Eq.refl (execAdHtype s)⟩
  | .adPtype, _, _, rfl => ⟨_, Eq.refl (execAdPtype s)⟩
  | .adHlen, _, _, rfl => ⟨_, Eq.refl (execAdHlen s)⟩
  | .adPlen, _, _, rfl => ⟨_, Eq.refl (execAdPlen s)⟩
  | .adOper, _, _, rfl => ⟨_, Eq.refl (execAdOper s)⟩
  | .adSha, _, _, rfl => ⟨_, Eq.refl (execAdSha s)⟩
  | .adSpa, _, _, rfl => ⟨_, Eq.refl (execAdSpa s)⟩
  | .adTha, _, _, rfl => ⟨_, Eq.refl (execAdTha s)⟩
  | .adTpa, _, _, rfl => ⟨_, Eq.refl (execAdTpa s)⟩
  | .adTrunc, _, _, rfl => ⟨_, Eq.refl (execAdTrunc s)⟩
  | .adTrail, _, _, rfl => ⟨_, Eq.refl (execAdTrail s)⟩

section
variable {s : State} {d : Decoder} {c m n : Nat}

theorem inDecoder_not_running (h : ∀ c m, s.cursor ≠ some ⟨d, c, m⟩) (k : Nat → Out) :
    inDecoder d n s k = .fault (.decoderNotRunning d) := by
  unfold inDecoder
  split
  next cur hcur =>
    refine if_neg ?_
    rintro rfl
    exact h _ _ hcur
  next => rfl

theorem inDecoder_buffer_changed (hcur : s.cursor = some ⟨d, c, m⟩) (hb : s.bufferHeld = false) (k : Nat → Out) :
    inDecoder d n s k = .refused .bufferChanged := by
  simp [inDecoder, ifHeld, hcur, hb]

/-- The three ways in which the guard of a place stops. -/
theorem inDecoder_stops (k : Nat → Out) :
    ((∀ c m, s.cursor ≠ some ⟨d, c, m⟩) → inDecoder d n s k = .fault (.decoderNotRunning d)) ∧
    (∀ c m, s.cursor = some ⟨d, c, m⟩ →
      (s.bufferHeld = false → inDecoder d n s k = .refused .bufferChanged) ∧
      (s.bufferHeld = true → m ≠ n → inDecoder d n s k = .fault (.stepNotReached d))) :=
  ⟨fun h => inDecoder_not_running h k, fun _ _ hcur =>
    ⟨fun hb => inDecoder_buffer_changed hcur hb k, fun hb hne => inDecoder_not_reached hcur hb hne k⟩⟩

/-- While a decoder runs, the end of FrameDecoder is under the guard of FD.LENWARN's place. -/
theorem finishFrame_of_cursor (v : Half) (h : s.cursor ≠ none) : ∃ k, finishFrame v s = inDecoder .frame 8 s k := by
  obtain ⟨cur, hcur⟩ := Option.ne_none_iff_exists'.1 h
  exact ⟨fun off => andThen (lenwarnOf v off s) (decoderReturn .frame), by rw [finishFrame, hcur]⟩

theorem finishFrame_without_header (v : Half) (hcur : s.cursor = none) (hne : s.frameStatus ≠ .ok) :
    finishFrame v s = .fault (.invalidRegister .etherType) := by
  rw [finishFrame, hcur]
  exact validHdr_invalid hne _ _ _

theorem finishFrame_buffer_changed (v : Half) (hcur : s.cursor = none) (hok : s.frameStatus = .ok)
    (het : s.hdr.etherType ≠ none) (hb : s.bufferHeld = false) : finishFrame v s = .refused .bufferChanged := by
  obtain ⟨et, het⟩ := Option.ne_none_iff_exists'.1 het
  rw [finishFrame, hcur]
  change validHdr s _ _ _ = _
  rw [validHdr_ok hok, het, need_some, ifHeld, hb]
  rfl

end

/-- Every ETYPE code point first ends FrameDecoder. -/
theorem exec_etype_parts {i : Instr} (h : i = .cpEtypeArp ∨ ∃ v, i = .cpEtypeLength v ∨ i = .cpEtypeOther v) (s : State) :
    ∃ v k, exec i s = andThen (finishFrame v s) k := by
  obtain rfl | ⟨v, rfl | rfl⟩ := h <;> exact ⟨_, _, rfl⟩

/-- ARP_DECODE on the payload does nothing when its start stops. -/
theorem arpRun_of_start_fault {e : Entry} {s : State} {r : Fault} (h : startRun e s = .fault r) : arpRun e s = .fault r := by
  rw [arpRun, runSteps, h]

theorem arpRun_of_start_refused {e : Entry} {s : State} {r : Refusal} (h : startRun e s = .refused r) :
    arpRun e s = .refused r := by
  rw [arpRun, runSteps, h]

theorem startArpPayload_buffer_changed {s : State} (hok : s.frameStatus = .ok) (hcomplete : s.hdr.complete = true)
    (hb : s.bufferHeld = false) : startRun .arpPayload s = .refused .bufferChanged := by
  obtain ⟨-, -, -, -, hoff, hlen, -⟩ := s.hdr.complete_iff.1 hcomplete
  obtain ⟨o, ho⟩ := Option.isSome_iff_exists.1 hoff
  obtain ⟨n, hn⟩ := Option.isSome_iff_exists.1 hlen
  rw [startRun, startArpPayload, validHdr_ok hok, ho, need_some, validHdr_ok hok, hn, need_some, ifHeld, hb]
  rfl

/-- Settles O59: each request is under a guard, of its place, of a valid header or of the unchanged buffer. -/
theorem stepsOutsideTheirRunStop : Obligations.StepsOutsideTheirRunStop := by
  refine ⟨fun s i d n hplace => ?step, fun s d rest hp => ?ret, fun s i hi => ?etype, fun s => ⟨fun hne => ?invalid,
    fun hinv hok hb => ?changed⟩⟩
  case step =>
    have hguard : ∃ k, exec i s = inDecoder d n s k := by
      obtain hplace | ⟨rfl, rfl, rfl | ⟨v, rfl⟩⟩ := hplace
      · exact exec_of_place s hplace
      · exact ⟨_, Eq.refl (execCpEth12Vlan s)⟩
      · exact ⟨_, Eq.refl (execCpEth12Plain v s)⟩
    obtain ⟨k, hk⟩ := hguard
    rw [hk]
    exact inDecoder_stops k
  case ret =>
    obtain ⟨k, hk⟩ : ∃ k, doOp (.ret d) (s.setPending rest) = inDecoder d d.stepCount (s.setPending rest) k :=
      ⟨_, Eq.refl (decoderReturn d (s.setPending rest))⟩
    rw [step_cons hp, hk]
    exact inDecoder_stops k
  case etype =>
    obtain ⟨v, k, hexec⟩ := exec_etype_parts hi s
    rw [hexec]
    refine ⟨fun hcur hne => ?_, fun hcur hok het hb => ?_, fun c m hcur => ?_, fun c m hcur => ?_⟩
    · rw [finishFrame_without_header v hcur hne]
      rfl
    · rw [finishFrame_buffer_changed v hcur hok het hb]
      rfl
    · obtain ⟨k', hk'⟩ := finishFrame_of_cursor (s := s) v (by rw [hcur]; nofun)
      rw [hk', inDecoder_not_running (by rw [hcur]; nofun)]
      rfl
    · obtain ⟨k', hk'⟩ := finishFrame_of_cursor (s := s) v (by rw [hcur]; nofun)
      rw [hk']
      refine ⟨fun hb => ?_, fun hb hne => ?_⟩
      · rw [inDecoder_buffer_changed hcur hb]
        rfl
      · rw [inDecoder_not_reached hcur hb hne]
        rfl
  case invalid => exact arpRun_of_start_fault (validHdr_invalid hne _ _ _)
  case changed => exact arpRun_of_start_refused (startArpPayload_buffer_changed hok (hinv.headerValid hok) hb)

end Sys2Proof.Machine
end

section
/-! Hard failures (60 R188): whichever instruction makes a decoder fail, no record of that decoder is left and no decoder
runs; a failure of ArpDecoder leaves the header, unless ARP_DECODE alone has dropped it at its start. -/

namespace Sys2Proof.Machine

/-! ## Transitions that leave a clean failure -/

/-- After a failure of FrameDecoder there is no record of either decoder and no run (60 R188, R197 (d)). -/
def FrameFailureClean (t : State) : Prop :=
  t.frameStatus = .tooShort → t.hdr = Header.invalid ∧ t.arp = ArpRecord.invalid ∧ t.arpStatus = .notRun ∧ t.cursor = none

/-- What the statement asks of one transition: of a failure of FrameDecoder, and of one of ArpDecoder with FrameDecoder's
result beside it. -/
def FailsClean (i : Instr) (s t : State) : Prop :=
  (s.frameStatus ≠ .tooShort → FrameFailureClean t) ∧
  (s.arpStatus ≠ .tooShort → t.arpStatus = .tooShort →
    t.arp = ArpRecord.invalid ∧ t.cursor = none ∧
    (i = .demux → t.frameStatus = .ok ∧ t.hdr.complete = true) ∧
    (i = .cpEtypeArp → t.frameStatus = .ok ∧ t.hdr = { s.hdr with wLenMismatch := t.hdr.wLenMismatch }) ∧
    (i = .arpDecode .whole → t.frameStatus = .none ∧ t.hdr = Header.invalid) ∧
    (i ≠ .demux → i ≠ .cpEtypeArp → i ≠ .arpDecode .whole → t.hdr = s.hdr ∧ t.frameStatus = s.frameStatus))

/-- A transition that makes at most FrameDecoder fail, and leaves that failure clean. -/
structure FrameFailsOnly (s t : State) : Prop where
  clean : FrameFailureClean s → FrameFailureClean t
  arp   : t.arpStatus = .tooShort → s.arpStatus = .tooShort

section
variable {i : Instr} {s t : State}

theorem FrameFailsOnly.trans {u : State} (h : FrameFailsOnly s t) (h' : FrameFailsOnly t u) : FrameFailsOnly s u :=
  ⟨fun hs => h'.clean (h.clean hs), fun hu => h.arp (h'.arp hu)⟩

theorem frameFailureClean_of_ne (h : t.frameStatus ≠ .tooShort) : FrameFailureClean t := fun hfailed => absurd hfailed h

theorem FrameFailsOnly.failsClean (h : FrameFailsOnly s t) : FailsClean i s t :=
  ⟨fun hne => h.clean (frameFailureClean_of_ne hne), fun hne hfailed => absurd (h.arp hfailed) hne⟩

/-- A running FrameDecoder has not failed, so going on is no failure. -/
theorem frameFailsOnly_goesOn (hcur : s.frameCursor = true) (h : Header) (c n : Nat) :
    FrameFailsOnly s ((s.setHdr h).reach .frame c n) := by
  refine ⟨fun hs hfailed => ?_, id⟩
  obtain ⟨-, -, -, hnone⟩ := hs hfailed
  exact absurd hnone (cursor_ne_none_of_frameCursor hcur)

theorem FrameMove.frameFailsOnly (h : FrameMove s t) (hcur : s.frameCursor = true) : FrameFailsOnly s t := by
  cases h with
  | goesOn h c n => exact frameFailsOnly_goesOn hcur h c n
  | fails => exact ⟨fun _ _ => ⟨rfl, rfl, rfl, rfl⟩, nofun⟩

/-- A transition that leaves FrameDecoder's result, of any instruction but the three that touch it. -/
theorem failsClean_of_sameHeader (hsame : SameHeader s t) (hclean : ArpFailureClean s → ArpFailureClean t) (hdemux : i ≠ .demux)
    (hetype : i ≠ .cpEtypeArp) (hwhole : i ≠ .arpDecode .whole) : FailsClean i s t := by
  refine ⟨fun hne => frameFailureClean_of_ne (hsame.frameStatus ▸ hne), fun hne hfailed => ?_⟩
  obtain ⟨harp, hcur⟩ := hclean (fun h => absurd h hne) hfailed
  exact ⟨harp, hcur, fun h => absurd h hdemux, fun h => absurd h hetype, fun h => absurd h hwhole,
    fun _ _ _ => ⟨hsame.hdr, hsame.frameStatus⟩⟩

end

/-! ## Every instruction -/

/-- The operation makes at most FrameDecoder fail. -/
def OnlyFrameFails (f : State → Out) : Prop := ∀ s, Ensures (f s) (FrameFailsOnly s)

theorem MovesFrame.onlyFrameFails {f : State → Out} (hf : MovesFrame f) : OnlyFrameFails f := fun s t ht =>
  (hf s t ht).2.frameFailsOnly (hf s t ht).1

theorem execFrameDecode_onlyFrameFails : OnlyFrameFails execFrameDecode := fun s => by
  rw [execFrameDecode_eq]
  refine ensures_ite (fun _ => ensures_refused _) fun _ => ensures_next ?_
  split
  · exact ⟨fun _ _ => ⟨rfl, rfl, rfl, rfl⟩, nofun⟩
  · exact ⟨fun _ => frameFailureClean_of_ne nofun, nofun⟩

theorem execCpEth12Vlan_onlyFrameFails : OnlyFrameFails execCpEth12Vlan := fun s =>
  ensures_inDecoder fun _ hcur _ t ht => by
    have hkeeps : ∀ f ∈ taggedSteps, ∀ u v, FrameFailsOnly s u → f u = .next v → FrameFailsOnly s v :=
      fun f hf u v hu hv => hu.trans ((frameSteps_move f (taggedSteps_subset f hf)).onlyFrameFails u v hv)
    exact runSteps_keeps hkeeps (frameFailsOnly_goesOn (frameCursor_of_cursor hcur) _ _ _) ht

theorem execCpEth12Plain_onlyFrameFails (etherType : Half) : OnlyFrameFails (execCpEth12Plain etherType) := fun _ =>
  ensures_inDecoder fun _ hcur _ t ht =>
    (frameFailsOnly_goesOn (frameCursor_of_cursor hcur) _ _ _).trans (execFdPayload_moves.onlyFrameFails _ t ht)

/-- FrameDecoder's end before an EtherType's code point is a success, with at most the last flag written. -/
theorem finishFrame_ok {etherType : Half} {s t : State} (h : finishFrame etherType s = .next t) :
    t.frameStatus = .ok ∧ t.hdr = { s.hdr with wLenMismatch := t.hdr.wLenMismatch } := by
  obtain ⟨-, ⟨c, n, -, -, rfl⟩ | ⟨-, hok, -, rfl⟩⟩ := finishFrame_next h
  · exact ⟨rfl, rfl⟩
  · exact ⟨hok, rfl⟩

theorem notArp_onlyFrameFails (etherType : Half) : OnlyFrameFails (notArp etherType) := fun s t ht => by
  obtain ⟨u, hu, ht⟩ := andThen_next ht
  obtain ⟨hok, -⟩ := finishFrame_ok hu
  cases ht
  exact ⟨fun _ => frameFailureClean_of_ne (by rw [payloadOpaque_frameStatus, hok]; nofun), nofun⟩

theorem exec_onlyFrameFails_of_answersOnly {i : Instr} (h : answersOnly i = true) : OnlyFrameFails (exec i) :=
  fun s t ht => by
    obtain ⟨v, rfl⟩ := ((exec_answers h).only s).ensures t ht
    exact ⟨id, id⟩

/-- The transitions of an instruction leave clean failures. -/
def LeavesClean (i : Instr) : Prop := ∀ s, Ensures (exec i s) (FailsClean i s)

theorem OnlyFrameFails.leavesClean {i : Instr} (h : OnlyFrameFails (exec i)) : LeavesClean i := fun s t ht =>
  (h s t ht).failsClean

/-- A step of ArpDecoder leaves FrameDecoder's result. -/
theorem MovesArp.leavesClean {i : Instr} (h : MovesArp (exec i)) (hdemux : i ≠ .demux) (hetype : i ≠ .cpEtypeArp)
    (hwhole : i ≠ .arpDecode .whole) : LeavesClean i := fun s t ht => by
  obtain ⟨hcur, hmove⟩ := h s t ht
  exact failsClean_of_sameHeader hmove.sameHeader (fun hs => hmove.failureClean hs hcur) hdemux hetype hwhole

theorem demux_leavesClean : LeavesClean .demux := fun s t ht => by
  obtain ⟨-, hresult⟩ := execDemux_next ht
  cases hresult with
  | frameFailed => exact ⟨fun _ _ => ⟨rfl, rfl, rfl, rfl⟩, fun _ => nofun⟩
  | payloadOpaque | arpDecoded => exact ⟨fun _ => frameFailureClean_of_ne nofun, fun _ => nofun⟩
  | arpFailed =>
    exact ⟨fun _ => frameFailureClean_of_ne nofun, fun _ _ => ⟨rfl, rfl, fun _ => ⟨rfl, s.raw.header_complete⟩, nofun, nofun,
      fun h => absurd rfl h⟩⟩

theorem cpEtypeArp_leavesClean : LeavesClean .cpEtypeArp := fun s t ht => by
  obtain ⟨u, hu, ht⟩ := andThen_next ht
  obtain ⟨hok, hhdr⟩ := finishFrame_ok hu
  obtain ⟨-, -, hsame, hclean⟩ := arpRun_payload_next ht
  have hstatus : t.frameStatus = .ok := hsame.frameStatus.trans hok
  refine ⟨fun _ => frameFailureClean_of_ne (by rw [hstatus]; nofun), fun _ hfailed => ?_⟩
  obtain ⟨harp, hcur⟩ := hclean hfailed
  refine ⟨harp, hcur, nofun, fun _ => ⟨hstatus, ?_⟩, nofun, fun _ h => absurd rfl h⟩
  rw [hsame.hdr]
  exact hhdr

theorem arpDecode_leavesClean : ∀ src, LeavesClean (.arpDecode src)
  | .payload => fun s t ht => by
      obtain ⟨-, -, hsame, hclean⟩ := arpRun_payload_next ht
      exact failsClean_of_sameHeader hsame (fun _ => hclean) nofun nofun nofun
  | .whole => fun s t ht => by
      have hrun : exec (.arpDecode .whole) s = _ := arpRun_whole_eq s
      rw [hrun] at ht
      cases ht
      split
      · exact ⟨fun _ => frameFailureClean_of_ne nofun, fun _ _ => ⟨rfl, rfl, nofun, nofun, fun _ => ⟨rfl, rfl⟩,
          fun _ _ h => absurd rfl h⟩⟩
      · exact ⟨fun _ => frameFailureClean_of_ne nofun, fun _ => nofun⟩

theorem exec_leavesClean : ∀ i, LeavesClean i
  | .cpEth12Vlan => OnlyFrameFails.leavesClean execCpEth12Vlan_onlyFrameFails
  | .cpEth12Plain etherType => OnlyFrameFails.leavesClean (execCpEth12Plain_onlyFrameFails etherType)
  | .cpEtypeArp => cpEtypeArp_leavesClean
  | .cpEtypeLength etherType | .cpEtypeOther etherType => OnlyFrameFails.leavesClean (notArp_onlyFrameFails etherType)
  | .demux => demux_leavesClean
  | .frameDecode => OnlyFrameFails.leavesClean execFrameDecode_onlyFrameFails
  | .arpDecode src => arpDecode_leavesClean src
  | .fdLenchk => OnlyFrameFails.leavesClean execFdLenchk_moves.onlyFrameFails
  | .fdMacdst => OnlyFrameFails.leavesClean execFdMacdst_moves.onlyFrameFails
  | .fdMacsrc => OnlyFrameFails.leavesClean execFdMacsrc_moves.onlyFrameFails
  | .fdVlanpeek => OnlyFrameFails.leavesClean execFdVlanpeek_moves.onlyFrameFails
  | .fdVlanchk => OnlyFrameFails.leavesClean execFdVlanchk_moves.onlyFrameFails
  | .fdVlantag => OnlyFrameFails.leavesClean execFdVlantag_moves.onlyFrameFails
  | .fdEtype => OnlyFrameFails.leavesClean execFdEtype_moves.onlyFrameFails
  | .fdPayload => OnlyFrameFails.leavesClean execFdPayload_moves.onlyFrameFails
  | .fdLenwarn => OnlyFrameFails.leavesClean execFdLenwarn_moves.onlyFrameFails
  | .adLenchk => MovesArp.leavesClean execAdLenchk_moves nofun nofun nofun
  | .adHdrchk => MovesArp.leavesClean execAdHdrchk_moves nofun nofun nofun
  | .adHtype => MovesArp.leavesClean execAdHtype_moves nofun nofun nofun
  | .adPtype => MovesArp.leavesClean execAdPtype_moves nofun nofun nofun
  | .adHlen => MovesArp.leavesClean execAdHlen_moves nofun nofun nofun
  | .adPlen => MovesArp.leavesClean execAdPlen_moves nofun nofun nofun
  | .adOper => MovesArp.leavesClean execAdOper_moves nofun nofun nofun
  | .adSha => MovesArp.leavesClean execAdSha_moves nofun nofun nofun
  | .adSpa => MovesArp.leavesClean execAdSpa_moves nofun nofun nofun
  | .adTha => MovesArp.leavesClean execAdTha_moves nofun nofun nofun
  | .adTpa => MovesArp.leavesClean execAdTpa_moves nofun nofun nofun
  | .adTrunc => MovesArp.leavesClean execAdTrunc_moves nofun nofun nofun
  | .adTrail => MovesArp.leavesClean execAdTrail_moves nofun nofun nofun
  | .demuxSel | .macFmt _ | .hexjoin _ | .dotted _ | .avHwname | .avPtname | .avSpaStr | .avTpaStr | .avShaStr | .avThaStr
  | .avOpclass | .cpHtypeEthernet | .cpHtypeOther _ | .cpPtypeIpv4 | .cpPtypeArp | .cpPtypeOther _ | .cpOperRequest
  | .cpOperReply | .cpOperOther _ => OnlyFrameFails.leavesClean (exec_onlyFrameFails_of_answersOnly rfl)

/-- Settles O56: instruction by instruction; only DEMUX, CP.ETYPE.ARP and ARP_DECODE alone touch both decoders. -/
theorem hardFailuresLeaveNoRecord : Obligations.HardFailuresLeaveNoRecord := by
  intro i s t ht
  exact exec_leavesClean i s t ht

end Sys2Proof.Machine
end
